-- ==== Sys2Proof/Word.lean ====
section
/-! DEFINITION. The widths of the engine's data (00_scope R6, R8): byte, word, 64-bit length, and the value a host
read returns. -/

namespace Sys2Proof

/-- One byte of the message or of the padded message (20_memory R64). -/
abbrev Byte := BitVec 8

/-- "an unsigned 32-bit integer; arithmetic on words is defined modulo 2^32" (00_scope R8). -/
abbrev Word := BitVec 32

/-- A 64-bit length, count or index register (00_scope R10), or the data of a host access (30_encoding R91). -/
abbrev DWord := BitVec 64

/-- "A read returns a value of the width of what is read (8, 32 or 64 bits)" (30_encoding R91). -/
inductive ReadValue where
  | byte (b : Byte)
  | word (w : Word)
  | dword (d : DWord)
deriving DecidableEq, Repr, Inhabited

end Sys2Proof
end

