-- ==== Sys2Proof/Syntax.lean ====
section
/-! DEFINITION. The sixteen operations of spec/opcode_table.json, the phases that select eleven of them, and the two
formats their codes are written in (30_encoding R90, R91, R95). -/

namespace Sys2Proof

/-- One step of an execution: five host rows, then the eleven engine operations (30_encoding R90). -/
inductive Instr where
  /-- RREG n: read host register n (43_host_interface R181). -/
  | rreg (n : DWord)
  /-- WREG n, v: write host register n (R182). -/
  | wreg (n v : DWord)
  /-- RMSG j: read message byte j (R183). -/
  | rmsg (j : DWord)
  /-- WMSG j, b: write message byte j (R184); b is data[7:0] (R91). -/
  | wmsg (j : DWord) (b : Byte)
  /-- START: the WREG of the value 1 to register 0 (R185). -/
  | start
  /-- LCHK: reject a length whose bit count does not fit 64 bits (R186). -/
  | lchk
  /-- PSIZE: size the padded message and claim the buffer (40_padder R115). -/
  | psize
  /-- PADB: write one byte of the padded message (40_padder R116). -/
  | padb
  /-- PCHK: validate the padded length against the block count (41_block_parser R132). -/
  | pchk
  /-- PARSEW: compose one word (41_block_parser R133). -/
  | parsew
  /-- HINIT: initialise the hash state (42_compressor R144). -/
  | hinit
  /-- SCHED: write one word of the message schedule (42_compressor R145). -/
  | sched
  /-- VARS: load the working variables (42_compressor R146). -/
  | vars
  /-- ROUND: one compression round (42_compressor R147). -/
  | round
  /-- CHAIN: the chaining update (42_compressor R148). -/
  | chain
  /-- FINISH: deliver the digest (42_compressor R155). -/
  | finish
deriving DecidableEq, Repr

/-- The twelve values of PHASE (10_state R25, 30_encoding R95). The unused codes 12 to 15 have no constructor (93 U5; log
12). -/
inductive Phase where
  | idle
  | lchk
  | psize
  | padb
  | pchk
  | parsew
  | hinit
  | sched
  | vars
  | round
  | chain
  | finish
deriving DecidableEq, Repr

/-- What selects a step: a host access descriptor of 130 bits (30_encoding R91) or a PHASE code of 4 bits (R95). -/
inductive Code where
  | host (descriptor : BitVec 130)
  | phase (code : BitVec 4)
deriving DecidableEq, Repr

/-- Why a code selects no operation. -/
inductive DecodeError where
  /-- PHASE code 0: "nothing; the engine takes no step" (30_encoding R95). -/
  | idle
  /-- PHASE codes 12 to 15, "unused" (30_encoding R95). -/
  | unusedPhase
  /-- A number with bits above the 4 or 130 bits of its format: no code at all (log 15). -/
  | notACode
deriving DecidableEq, Repr

/-- One row of spec/opcode_table.json: `word` matches it when `word AND mask = pattern`. -/
structure TableRow where
  mnemonic : String
  width    : Nat
  pattern  : Nat
  mask     : Nat
deriving DecidableEq, Repr

end Sys2Proof
end

