-- ==== Sys2Proof/WellFormed.lean ====
section
/-! DEFINITION. Which terms of `Instr` are the spelling a descriptor decodes to. Operand widths are in the types, and
every index is allowed ("All four kinds are defined, so no descriptor is illegal", 30_encoding R91). -/

namespace Sys2Proof

/-- The WREG that is the command START: register 0 and data[31:0] = 1 (30_encoding R92). -/
abbrev isStartWrite (n v : DWord) : Prop := n = 0 ∧ v.extractLsb' 0 32 = 1

/-- The table decodes START before WREG, so a WREG that is START is spelled `start`, and `wreg` with those operands is
the one ill-formed term. -/
abbrev Instr.WellFormed : Instr → Prop
  | .wreg n v => ¬ isStartWrite n v
  | .rreg _ => True
  | .rmsg _ => True
  | .wmsg _ _ => True
  | .start => True
  | .lchk => True
  | .psize => True
  | .padb => True
  | .pchk => True
  | .parsew => True
  | .hinit => True
  | .sched => True
  | .vars => True
  | .round => True
  | .chain => True
  | .finish => True

end Sys2Proof
end

