-- ==== Sys2Proof/Decode.lean ====
section
/-! DEFINITION. Decoding the two formats of 30_encoding (R91 and R95), the encoder, and the rows of
spec/opcode_table.json. -/

namespace Sys2Proof

/-- The numeric code of a phase (30_encoding R95). -/
def Phase.code : Phase → BitVec 4
  | .idle => 0
  | .lchk => 1
  | .psize => 2
  | .padb => 3
  | .pchk => 4
  | .parsew => 5
  | .hinit => 6
  | .sched => 7
  | .vars => 8
  | .round => 9
  | .chain => 10
  | .finish => 11

/-- The phase with a given code; codes 12 to 15 are unused (30_encoding R95). -/
def Phase.ofCode (c : BitVec 4) : Option Phase :=
  match c.toNat with
  | 0 => some .idle
  | 1 => some .lchk
  | 2 => some .psize
  | 3 => some .padb
  | 4 => some .pchk
  | 5 => some .parsew
  | 6 => some .hinit
  | 7 => some .sched
  | 8 => some .vars
  | 9 => some .round
  | 10 => some .chain
  | 11 => some .finish
  | _ => none

/-- The operation a phase selects; IDLE selects none (10_state R25). -/
def Phase.operation : Phase → Option Instr
  | .idle => none
  | .lchk => some .lchk
  | .psize => some .psize
  | .padb => some .padb
  | .pchk => some .pchk
  | .parsew => some .parsew
  | .hinit => some .hinit
  | .sched => some .sched
  | .vars => some .vars
  | .round => some .round
  | .chain => some .chain
  | .finish => some .finish

/-- 30_encoding R91: kind is bits 129:128. -/
def descriptorKind (d : BitVec 130) : BitVec 2 := d.extractLsb' 128 2

/-- 30_encoding R91: index is bits 127:64. -/
def descriptorIndex (d : BitVec 130) : DWord := d.extractLsb' 64 64

/-- 30_encoding R91: data is bits 63:0. -/
def descriptorData (d : BitVec 130) : DWord := d.extractLsb' 0 64

/-- A descriptor from its three parts (30_encoding R91). -/
def descriptor (kind : BitVec 2) (index data : DWord) : BitVec 130 :=
  (kind ++ index ++ data).cast (by decide)

/-- The host access a descriptor describes (30_encoding R91); START is decoded before WREG (opcode_table.json), data is
ignored by the reads, and WMSG uses data[7:0] only. -/
def decodeHost (d : BitVec 130) : Instr :=
  if descriptorKind d = 0 then .rreg (descriptorIndex d)
  else if descriptorKind d = 1 then
    if descriptorIndex d = 0 ∧ (descriptorData d).extractLsb' 0 32 = 1 then .start
    else .wreg (descriptorIndex d) (descriptorData d)
  else if descriptorKind d = 2 then .rmsg (descriptorIndex d)
  else .wmsg (descriptorIndex d) ((descriptorData d).extractLsb' 0 8)

/-- The engine operation a PHASE code selects, or why there is none (30_encoding R95). -/
def decodePhase (c : BitVec 4) : Except DecodeError Instr :=
  match Phase.ofCode c with
  | none => .error .unusedPhase
  | some p =>
    match p.operation with
    | none => .error .idle
    | some i => .ok i

/-- The operation a code selects (30_encoding R90: a step is a host access or an engine operation). -/
def decode : Code → Except DecodeError Instr
  | .host d => .ok (decodeHost d)
  | .phase c => decodePhase c

/-- The code of an instruction. The bits its row ignores (data of the reads, data[63:8] of WMSG, data[63:32] of START)
are written as 0, as 95_test_vectors section 1 prints them (log 14). -/
def encode : Instr → Code
  | .rreg n => .host (descriptor 0 n 0)
  | .wreg n v => .host (descriptor 1 n v)
  | .rmsg j => .host (descriptor 2 j 0)
  | .wmsg j b => .host (descriptor 3 j (b.setWidth 64))
  | .start => .host (descriptor 1 0 1)
  | .lchk => .phase Phase.lchk.code
  | .psize => .phase Phase.psize.code
  | .padb => .phase Phase.padb.code
  | .pchk => .phase Phase.pchk.code
  | .parsew => .phase Phase.parsew.code
  | .hinit => .phase Phase.hinit.code
  | .sched => .phase Phase.sched.code
  | .vars => .phase Phase.vars.code
  | .round => .phase Phase.round.code
  | .chain => .phase Phase.chain.code
  | .finish => .phase Phase.finish.code

/-- The number a code is, bit 0 its least significant bit. -/
def Code.number : Code → Nat
  | .host d => d.toNat
  | .phase c => c.toNat

/-- A number read as a code: at most 8 bits hold a PHASE code in bits 3:0, more hold a descriptor in bits 129:0, and the
bits above those must be 0 (DESIGN CHOICE, safe: log 15). -/
def codeOfNumber (nbits w : Nat) : Except DecodeError Code :=
  if nbits ≤ 8 then
    if w < 2 ^ 4 then .ok (.phase (BitVec.ofNat 4 w)) else .error .notACode
  else if w < 2 ^ 130 then .ok (.host (BitVec.ofNat 130 w)) else .error .notACode

/-- Decoding any number of any size, with the reason where it selects no operation. -/
def decodeNumber (nbits w : Nat) : Except DecodeError Instr :=
  match codeOfNumber nbits w with
  | .error e => .error e
  | .ok c => decode c

/-- The instruction the decoder reads from a row's bits, numbered as spec/opcode_table.json numbers them. -/
def decodeTableWord (nbits w : Nat) : Option Instr :=
  match decodeNumber nbits w with
  | .error _ => none
  | .ok i => some i

/-- The table's mnemonic of an instruction. -/
def Instr.mnemonic : Instr → String
  | .rreg _ => "RREG"
  | .wreg _ _ => "WREG"
  | .rmsg _ => "RMSG"
  | .wmsg _ _ => "WMSG"
  | .start => "START"
  | .lchk => "LCHK"
  | .psize => "PSIZE"
  | .padb => "PADB"
  | .pchk => "PCHK"
  | .parsew => "PARSEW"
  | .hinit => "HINIT"
  | .sched => "SCHED"
  | .vars => "VARS"
  | .round => "ROUND"
  | .chain => "CHAIN"
  | .finish => "FINISH"

/-- The host rows of spec/opcode_table.json, START first because its note says "decode START before WREG". -/
def hostRows : List TableRow :=
  [⟨"START", 130, 0x100000000000000000000000000000001, 0x3ffffffffffffffff00000000ffffffff⟩,
   ⟨"RREG", 130, 0x0, 0x300000000000000000000000000000000⟩,
   ⟨"WREG", 130, 0x100000000000000000000000000000000, 0x300000000000000000000000000000000⟩,
   ⟨"RMSG", 130, 0x200000000000000000000000000000000, 0x300000000000000000000000000000000⟩,
   ⟨"WMSG", 130, 0x300000000000000000000000000000000, 0x300000000000000000000000000000000⟩]

/-- The engine rows of spec/opcode_table.json. -/
def phaseRows : List TableRow :=
  [⟨"LCHK", 4, 0x1, 0xf⟩, ⟨"PSIZE", 4, 0x2, 0xf⟩, ⟨"PADB", 4, 0x3, 0xf⟩, ⟨"PCHK", 4, 0x4, 0xf⟩,
   ⟨"PARSEW", 4, 0x5, 0xf⟩, ⟨"HINIT", 4, 0x6, 0xf⟩, ⟨"SCHED", 4, 0x7, 0xf⟩, ⟨"VARS", 4, 0x8, 0xf⟩,
   ⟨"ROUND", 4, 0x9, 0xf⟩, ⟨"CHAIN", 4, 0xa, 0xf⟩, ⟨"FINISH", 4, 0xb, 0xf⟩]

/-- Does a number match a row? -/
def TableRow.matches (r : TableRow) (w : Nat) : Bool := w &&& r.mask == r.pattern

/-- The rows a code can match, in the order they are tried. -/
def rowsFor : Code → List TableRow
  | .host _ => hostRows
  | .phase _ => phaseRows

/-- The first row of the table that a code matches. -/
def rowOf (c : Code) : Option TableRow := (rowsFor c).find? (·.matches c.number)

end Sys2Proof
end

