-- ==== Sys2Proof/Config.lean ====
section
/-! DEFINITION. What one realisation fixes (the capacity NMAX, 00_scope R7) and the free values: what the spec calls
unspecified (93_implementation_defined U1 to U4), as constants without a body, so that no proof can see a value. -/

namespace Sys2Proof.Config

/-- 00_scope R7: NMAX is "a parameter of the model, an integer with 1 ≤ NMAX ≤ 2^55 + 1". -/
abbrev LegalCapacity (nmax : Nat) : Prop := 1 ≤ nmax ∧ nmax ≤ 2 ^ 55 + 1

/-- DESIGN CHOICE (log 1): the NMAX of `State.reset`. Unsafe: the spec leaves NMAX open. Four blocks, because no vector of
95_test_vectors needs more. -/
def resetCapacity : Nat := 4

/-- What byte `index` of MSG holds after reset number `resets` until it is written (U1, U2; log 3). Safe. -/
opaque unwrittenMsg (resets index : Nat) : Byte

/-- What byte `index` of PBUF holds after reset number `resets` until it is written (U1; log 3). Safe. -/
opaque unwrittenPbuf (resets index : Nat) : Byte

/-- What word `index` of WBUF holds after reset number `resets` until it is written (U1; log 3). Safe. -/
opaque unwrittenWbuf (resets index : Nat) : Word

/-- The `k`-th unspecified 8-bit answer to a host read (U4; log 4). Safe. -/
opaque freeByte (k : Nat) : Byte

/-- The `k`-th unspecified 32-bit answer to a host read (U3, U4; log 4). Safe. -/
opaque freeWord (k : Nat) : Word

/-- The `k`-th unspecified 64-bit answer to a host read (U3; log 4). Safe. -/
opaque freeDWord (k : Nat) : DWord

/-- The `k`-th answer to a read of a reserved register number, whose width the spec does not give either (U4; logs 4
and 19). Safe. -/
opaque freeRead (k : Nat) : ReadValue

/-- The byte PADB writes when J lies at or beyond PLEN, where R116's formula names no byte of the length field (its
precondition is J < PLEN, and no run breaks it; log 10). Safe. -/
opaque padByteBeyond (l plen j : DWord) : Byte

end Sys2Proof.Config
end

