-- ==== Sys2Proof/Machine/State.lean ====
section
/-! DEFINITION. The complete state of one engine instance (10_state R20), the model's own fields beside it, the reasons
a step can stop, and the state after reset (10_state R36). -/

namespace Sys2Proof.Machine

/-- The working variables (10_state R21): "Eight 32-bit registers named a, b, c, d, e, f, g, h". -/
structure WorkVars where
  a : Word
  b : Word
  c : Word
  d : Word
  e : Word
  f : Word
  g : Word
  h : Word
deriving DecidableEq, Repr

/-- The storage spaces of 20_memory R60. -/
inductive Space where
  | msg
  | pbuf
  | wbuf
  | w
  | k
  | hInit
deriving DecidableEq, Repr

/-- The three errors of 60_exceptions R210 ("The error taxonomy is closed"). -/
inductive EngineError where
  | allocationFailure
  | malformedInput
  | lengthOverflow
deriving DecidableEq, Repr

/-- Who takes the next step (00_scope R12; log 5). -/
inductive Turn where
  /-- The engine performs the operation PHASE selects, if any. -/
  | engine
  /-- The host makes the access this descriptor describes (30_encoding R91). -/
  | host (descriptor : BitVec 130)
  /-- The reset input is applied (70_reset_and_hazards R240, R241; log 16). -/
  | reset
deriving DecidableEq, Repr

/-- The state. The fields from `v` to `WBUF` are those of 10_state R20; the five after them are the model's own. -/
structure State where
  /-- The working variables a .. h (R21). -/
  v : WorkVars
  /-- The hash state H[0..7] (R22). -/
  H : Vector Word 8
  /-- The message schedule W[0..63] (R23). -/
  W : Vector Word 64
  /-- The digest D[0..7] with its validity: "none after reset, after START and after an error; some(H) after FINISH"
  (R24; log 13). -/
  D : Option (Vector Word 8)
  /-- The message bit length (R27). -/
  L : BitVec 64
  /-- The padding-zero count (R27). -/
  KPAD : BitVec 10
  /-- The padded byte length (R27). -/
  PLEN : BitVec 64
  /-- The block count (R27). -/
  N : BitVec 64
  /-- The index of the block being compressed (R26). -/
  I : BitVec 64
  /-- The schedule or round index (R26). -/
  T : BitVec 7
  /-- The byte or word index (R26). -/
  J : BitVec 64
  /-- The engine's program counter (R25). -/
  PHASE : Phase
  /-- The run ended with a digest (R35). -/
  DONE : Bool
  /-- The run ended with an error (R35). -/
  ERROR : Bool
  /-- Which error (R29, R35). -/
  ERRCODE : BitVec 2
  /-- The message byte length, host register 2 (R28). -/
  LEN : BitVec 64
  /-- The written bytes of the message space, indices rising (20_memory R61; log 3). -/
  MSG : List Host.Cell
  /-- The written bytes of the padded-message buffer (20_memory R62). -/
  PBUF : List Host.Cell
  /-- The written words of the word buffer (20_memory R63). -/
  WBUF : List (Nat × Word)
  /-- The model's own: the parameter NMAX of this instance (00_scope R7; log 1). No step changes it. -/
  NMAX : Nat
  /-- The model's own: the turns still to come; after the last one every turn is the engine's (log 5). -/
  script : List Turn
  /-- The model's own: what host reads have returned, latest first (log 7). -/
  returned : List ReadValue
  /-- The model's own: the index of the next free answer (log 4). -/
  freeCount : Nat
  /-- The model's own: how many reset events have happened, the index of the free contents of storage (log 3). -/
  resetCount : Nat
deriving DecidableEq, Repr

/-- Why the machine stops with a fault. -/
inductive Fault where
  /-- Raised by PADB, PARSEW, SCHED and ROUND when a counter names an index its space does not have. "The engine itself
  never forms an out-of-range index" (20_memory R77): only states no run reaches raise it (log 9). Safe. -/
  | noSuchIndex (space : Space)
deriving DecidableEq, Repr

/-- Why a step has no meaning. -/
inductive Refusal where
  /-- Raised by an arm of `exec` whose instruction has no meaning yet; no arm raises it now. Safe. -/
  | notModelled (mnemonic : String)
  /-- Raised by `step` for a PHASE code 12 to 15 (30_encoding R95: "unused"); the type Phase has no such value, so no
  state raises it (log 12). Safe. -/
  | unusedPhase
deriving DecidableEq, Repr

/-- The working variables after reset: "unspecified" (R36). DESIGN CHOICE 0 each (log 2). Unsafe. -/
def WorkVars.zero : WorkVars := ⟨0, 0, 0, 0, 0, 0, 0, 0⟩

/-- The state after reset (10_state R36): PHASE = IDLE, DONE = ERROR = 0, ERRCODE = 0, LEN = 0, D invalid, storage with
nothing written. The registers R36 leaves unspecified are 0 (DESIGN CHOICE, unsafe: log 2), and so are the model's own
counters; NMAX is `Config.resetCapacity` (DESIGN CHOICE, unsafe: log 1). -/
def State.reset : State where
  v := WorkVars.zero
  H := Vector.replicate 8 0
  W := Vector.replicate 64 0
  D := none
  L := 0
  KPAD := 0
  PLEN := 0
  N := 0
  I := 0
  T := 0
  J := 0
  PHASE := .idle
  DONE := false
  ERROR := false
  ERRCODE := 0
  LEN := 0
  MSG := []
  PBUF := []
  WBUF := []
  NMAX := Config.resetCapacity
  script := []
  returned := []
  freeCount := 0
  resetCount := 0

end Sys2Proof.Machine
end

