-- ==== Sys2Proof/Machine/WordOps.lean ====
section
/-! DEFINITION. Word operations (00_scope R9), the six logical functions (42_compressor R143), the constant tables K and
H_INIT (R141, R142), and the byte order of words and of the length field (20_memory R65, R66). -/

namespace Sys2Proof.Machine

/-- 00_scope R9: "right rotate: bit i of the result is bit (i+n) mod 32 of x". -/
def ROTR (x : Word) (n : Nat) : Word := x.rotateRight n

/-- 00_scope R9: "right shift; the n vacated high bits are 0". -/
def SHR (x : Word) (n : Nat) : Word := x >>> n

/-- 42_compressor R143. -/
def SIG0 (x : Word) : Word := ROTR x 7 ^^^ ROTR x 18 ^^^ SHR x 3

/-- 42_compressor R143. -/
def SIG1 (x : Word) : Word := ROTR x 17 ^^^ ROTR x 19 ^^^ SHR x 10

/-- 42_compressor R143. -/
def SUM0 (x : Word) : Word := ROTR x 2 ^^^ ROTR x 13 ^^^ ROTR x 22

/-- 42_compressor R143. -/
def SUM1 (x : Word) : Word := ROTR x 6 ^^^ ROTR x 11 ^^^ ROTR x 25

/-- 42_compressor R143: "bit i is y[i] where x[i] = 1, z[i] where x[i] = 0". -/
def CH (x y z : Word) : Word := (x &&& y) ^^^ (~~~x &&& z)

/-- 42_compressor R143: "bit i is the majority of x[i], y[i], z[i]". -/
def MAJ (x y z : Word) : Word := (x &&& y) ^^^ (x &&& z) ^^^ (y &&& z)

/-- 42_compressor R141 (values PRESUMED by the spec itself, 93 G1; log 18). -/
def hInitTable : Vector Word 8 :=
  #v[0x6a09e667, 0xbb67ae85, 0x3c6ef372, 0xa54ff53a, 0x510e527f, 0x9b05688c, 0x1f83d9ab, 0x5be0cd19]

/-- 42_compressor R142, one row of eight (values PRESUMED by the spec itself, 93 G2; log 18). -/
def kRow0 : List Word :=
  [0x428a2f98, 0x71374491, 0xb5c0fbcf, 0xe9b5dba5, 0x3956c25b, 0x59f111f1, 0x923f82a4, 0xab1c5ed5]

/-- R142, K[8..15]. -/
def kRow1 : List Word :=
  [0xd807aa98, 0x12835b01, 0x243185be, 0x550c7dc3, 0x72be5d74, 0x80deb1fe, 0x9bdc06a7, 0xc19bf174]

/-- R142, K[16..23]. -/
def kRow2 : List Word :=
  [0xe49b69c1, 0xefbe4786, 0x0fc19dc6, 0x240ca1cc, 0x2de92c6f, 0x4a7484aa, 0x5cb0a9dc, 0x76f988da]

/-- R142, K[24..31]. -/
def kRow3 : List Word :=
  [0x983e5152, 0xa831c66d, 0xb00327c8, 0xbf597fc7, 0xc6e00bf3, 0xd5a79147, 0x06ca6351, 0x14292967]

/-- R142, K[32..39]. -/
def kRow4 : List Word :=
  [0x27b70a85, 0x2e1b2138, 0x4d2c6dfc, 0x53380d13, 0x650a7354, 0x766a0abb, 0x81c2c92e, 0x92722c85]

/-- R142, K[40..47]. -/
def kRow5 : List Word :=
  [0xa2bfe8a1, 0xa81a664b, 0xc24b8b70, 0xc76c51a3, 0xd192e819, 0xd6990624, 0xf40e3585, 0x106aa070]

/-- R142, K[48..55]. -/
def kRow6 : List Word :=
  [0x19a4c116, 0x1e376c08, 0x2748774c, 0x34b0bcb5, 0x391c0cb3, 0x4ed8aa4a, 0x5b9cca4f, 0x682e6ff3]

/-- R142, K[56..63]. -/
def kRow7 : List Word :=
  [0x748f82ee, 0x78a5636f, 0x84c87814, 0x8cc70208, 0x90befffa, 0xa4506ceb, 0xbef9a3f7, 0xc67178f2]

/-- 42_compressor R142: the round constants, K[0] first. -/
def kTable : List Word := kRow0 ++ kRow1 ++ kRow2 ++ kRow3 ++ kRow4 ++ kRow5 ++ kRow6 ++ kRow7

/-- K[t] for t in 0 .. 63; callers check the index (Space.size). -/
def kWord (t : Nat) : Word := kTable.getD t 0

/-- 20_memory R65: b0·2^24 + b1·2^16 + b2·2^8 + b3, "byte[0] is the most-significant byte of the word". -/
def be32 (b0 b1 b2 b3 : Byte) : Word := b0 ++ b1 ++ b2 ++ b3

/-- 40_padder R112 and 20_memory R66: the eight bytes of a 64-bit value, most significant first. -/
def be64 (x : DWord) : List Byte :=
  [x.extractLsb' 56 8, x.extractLsb' 48 8, x.extractLsb' 40 8, x.extractLsb' 32 8,
   x.extractLsb' 24 8, x.extractLsb' 16 8, x.extractLsb' 8 8, x.extractLsb' 0 8]

/-- 20_memory R67: byte 4·i + j of the 32-byte form of the digest is bits (31 − 8j) : (24 − 8j) of word i. -/
def wordBytes (w : Word) : List Byte :=
  [w.extractLsb' 24 8, w.extractLsb' 16 8, w.extractLsb' 8 8, w.extractLsb' 0 8]

/-- 20_memory R67: the digest as 32 bytes, D[0] first. -/
def digestBytes (d : Vector Word 8) : List Byte := d.toList.flatMap wordBytes

end Sys2Proof.Machine
end

