-- ==== Sys2Proof/Machine/Ops.lean ====
section
/-! DEFINITION. The named operations over storage and control that the meanings share: storage access (20_memory R60 to
R64), answers to host reads (30_encoding R91), error entry (60_exceptions R215) and the way back from it, START
(43_host_interface R185), and the reset event (70_reset_and_hazards R240). -/

namespace Sys2Proof.Machine

/-! ### Storage as sorted lists -/

/-- What is written at an index, if anything. -/
def Memory.find {α : Type} : List (Nat × α) → Nat → Option α
  | [], _ => none
  | (k, x) :: m, i => if k = i then some x else Memory.find m i

/-- Storing at an index keeps the indices strictly rising. -/
def Memory.write {α : Type} : List (Nat × α) → Nat → α → List (Nat × α)
  | [], i, x => [(i, x)]
  | (k, y) :: m, i, x =>
    if i < k then (i, x) :: (k, y) :: m
    else if i = k then (i, x) :: m
    else (k, y) :: Memory.write m i x

/-- The canonical form: indices strictly rising. An unlisted index reads as no value of its own (log 3), so no entry can
equal what an unlisted index reads as. -/
def Memory.wf {α : Type} : List (Nat × α) → Bool
  | [] => true
  | [_] => true
  | (i, _) :: (j, y) :: m => decide (i < j) && Memory.wf ((j, y) :: m)

/-- Every listed index lies below a bound. -/
def Memory.below {α : Type} (bound : Nat) (m : List (Nat × α)) : Bool := m.all fun e => decide (e.1 < bound)

/-! ### The spaces of 20_memory R60 -/

/-- The number of units of a space (20_memory R60 to R63). -/
def Space.size (nmax : Nat) : Space → Nat
  | .msg => 64 * nmax - 9
  | .pbuf => 64 * nmax
  | .wbuf => 16 * nmax
  | .w => 64
  | .k => 64
  | .hInit => 8

/-- MSG_CAP_BYTES = 64·NMAX − 9 (20_memory R61). -/
def State.msgCap (s : State) : Nat := Space.msg.size s.NMAX

/-- MemRead(MSG, i, 1) (20_memory R64): the byte last written, or the free content of a byte not written since reset. -/
def State.msgByte (s : State) (i : Nat) : Byte :=
  (Memory.find s.MSG i).getD (Config.unwrittenMsg s.resetCount i)

/-- MemRead(PBUF, i, 1) (20_memory R64). -/
def State.pbufByte (s : State) (i : Nat) : Byte :=
  (Memory.find s.PBUF i).getD (Config.unwrittenPbuf s.resetCount i)

/-- MemRead(WBUF, i, 1) (20_memory R64). -/
def State.wbufWord (s : State) (i : Nat) : Word :=
  (Memory.find s.WBUF i).getD (Config.unwrittenWbuf s.resetCount i)

/-- W[t] for t in 0 .. 63; callers check the index. -/
def State.wWord (s : State) (t : Nat) : Word := s.W.getD t 0

/-- An engine access forms an index; a space without that index faults by name (log 9). -/
def withIndex (sp : Space) (i : Nat) (s : State) (k : Host.Outcome State Fault Refusal) :
    Host.Outcome State Fault Refusal :=
  if i < sp.size s.NMAX then k else .fault (.noSuchIndex sp)

/-! ### Answers to host reads -/

/-- A host read returns a value the rules give. -/
def State.answer (s : State) (r : ReadValue) : State := { s with returned := r :: s.returned }

/-- A host read returns an unspecified value, a fresh free one of the kind `f` (93 U3, U4; log 4). -/
def State.answerFree (s : State) (f : Nat → ReadValue) : State :=
  { s with returned := f s.freeCount :: s.returned, freeCount := s.freeCount + 1 }

/-! ### Error entry and the way back -/

/-- The ERRCODE of an error (60_exceptions R210). -/
def EngineError.code : EngineError → BitVec 2
  | .allocationFailure => 1
  | .malformedInput => 2
  | .lengthOverflow => 3

/-- 60_exceptions R215: `raise E()` "does exactly this in that same atomic step, and none of the operation's own writes
happen": ERROR, ERRCODE and PHASE, nothing else (log 21). -/
def State.raise (s : State) (e : EngineError) : State :=
  { s with ERROR := true, ERRCODE := e.code, PHASE := .idle }

/-- BUSY = (PHASE ≠ IDLE) (10_state R29). -/
def State.busy (s : State) : Bool := decide (s.PHASE ≠ .idle)

/-- 43_host_interface R185, the START command, the only way on after an error (60_exceptions R217): accepted when idle,
ignored while BUSY. -/
def State.startCall (s : State) : State :=
  if s.busy then s
  else { s with DONE := false, ERROR := false, ERRCODE := 0, D := none, PHASE := .lchk }

/-! ### Reset and turns -/

/-- 70_reset_and_hazards R240: "the state becomes the reset state of 10_state.md rule R36 in one atomic step", at any time
(R241). The instance's NMAX, the turns to come and the answers already given are not the engine's and stay; storage has
new unspecified contents, so the reset count grows (log 16). -/
def State.applyReset (s : State) : State :=
  { State.reset with
    NMAX := s.NMAX
    script := s.script
    returned := s.returned
    freeCount := s.freeCount
    resetCount := s.resetCount + 1 }

/-- The turn is over: the rest of the script remains. -/
def State.afterTurn (s : State) : State := { s with script := s.script.tail }

/-- Whose turn it is; after the end of the script, the engine's (log 5). -/
def State.turn (s : State) : Turn := s.script.headD .engine

end Sys2Proof.Machine
end

