-- ==== Sys2Proof/Machine/Flags.lean ====
section
/-! DEFINITION. The flags and the STATUS word (10_state R29, R35). There are no condition codes. -/

namespace Sys2Proof.Machine

/-- A flag as one bit. -/
def flagBit (b : Bool) : BitVec 1 := BitVec.ofBool b

/-- 10_state R29: bits 31:5 zero, ERRCODE at 4:3, ERROR at 2, DONE at 1, BUSY at 0. -/
def State.status (s : State) : Word :=
  (0 : BitVec 27) ++ s.ERRCODE ++ flagBit s.ERROR ++ flagBit s.DONE ++ flagBit s.busy

end Sys2Proof.Machine
end

