-- ==== Sys2Proof/Machine/Operands.lean ====
section
/-! DEFINITION. Operand forms: the host register map (10_state R33), the length functions of the Padder (40_padder R111),
the byte PADB writes (R116) and the word SCHED writes (42_compressor R145). -/

namespace Sys2Proof.Machine

/-! ### Host registers -/

/-- What a read of host register n gives where the rules give a value (43_host_interface R181); none where the value is
unspecified. -/
def State.registerValue (s : State) (n : DWord) : Option ReadValue :=
  if n = 1 then some (.word s.status)
  else if n = 2 then some (.dword s.LEN)
  else if n = 3 then (if s.DONE then some (.dword s.N) else none)
  else if n = 4 then (if s.DONE then some (.dword s.PLEN) else none)
  else if 8 ≤ n.toNat ∧ n.toNat ≤ 15 then
    (if s.DONE then s.D.map fun d => .word (d.getD (n.toNat - 8) 0) else none)
  else none

/-- An unspecified answer has the width of the register (10_state R33); a reserved number has no width, so the width of
its answer is free too (log 19). -/
def unspecifiedAnswer (n : DWord) (k : Nat) : ReadValue :=
  if n = 0 then .word (Config.freeWord k)
  else if n = 3 ∨ n = 4 then .dword (Config.freeDWord k)
  else if 8 ≤ n.toNat ∧ n.toNat ≤ 15 then .word (Config.freeWord k)
  else Config.freeRead k

/-! ### Length functions -/

/-- 40_padder R111. -/
def bitlen (n : Nat) : Nat := 8 * n

/-- 40_padder R111: (447 − 8·n) mod 512, the mathematical remainder (00_scope R8). -/
def kpad (n : Nat) : Nat := ((447 - 8 * (n : Int)) % 512).toNat

/-- 40_padder R111 and R114: floor(kpad(n) / 8). -/
def zpad (n : Nat) : Nat := kpad n / 8

/-- 40_padder R111: the padded byte length. -/
def padlen (n : Nat) : Nat := n + 1 + zpad n + 8

/-- 40_padder R111: the block count. -/
def nblocks (n : Nat) : Nat := padlen n / 64

/-! ### Operands of the engine -/

/-- 40_padder R116, the four sources of a padding byte. The comparisons are those of the numbers (J < PLEN − 8 is
J + 8 < PLEN). A J at or beyond PLEN, which no run reaches, names no byte of the length field: free (log 10). -/
def State.padByte (s : State) : Byte :=
  if s.J.toNat < s.LEN.toNat then s.msgByte s.J.toNat
  else if s.J.toNat = s.LEN.toNat then 0x80
  else if s.J.toNat + 8 < s.PLEN.toNat then 0x00
  else if s.J.toNat < s.PLEN.toNat then (s.L >>> (8 * (s.PLEN.toNat - 1 - s.J.toNat))).setWidth 8
  else Config.padByteBeyond s.L s.PLEN s.J

/-- 41_block_parser R133: the word of PBUF[4J .. 4J+3]. -/
def State.parsedWord (s : State) : Word :=
  let j := s.J.toNat
  be32 (s.pbufByte (4 * j)) (s.pbufByte (4 * j + 1)) (s.pbufByte (4 * j + 2)) (s.pbufByte (4 * j + 3))

/-- 42_compressor R145: the index of WBUF that SCHED loads from. -/
def State.loadIndex (s : State) : Nat := 16 * s.I.toNat + s.T.toNat

/-- 42_compressor R145: W[T] is loaded for T < 16 and expanded for T ≥ 16. -/
def State.schedWord (s : State) : Word :=
  let t := s.T.toNat
  if t < 16 then s.wbufWord s.loadIndex
  else SIG1 (s.wWord (t - 2)) + s.wWord (t - 7) + SIG0 (s.wWord (t - 15)) + s.wWord (t - 16)

end Sys2Proof.Machine
end

