-- ==== Sys2Proof/Machine/BlockParser.lean ====
section
/-! DEFINITION. The Block Parser: PCHK and PARSEW (41_block_parser R132, R133). -/

namespace Sys2Proof.Machine

/-- 41_block_parser R132: "if PLEN mod 64 ≠ 0 or N ≠ PLEN / 64 then raise MalformedInput()". -/
def execPchk (s : State) : Host.Outcome State Fault Refusal :=
  if s.PLEN.toNat % 64 ≠ 0 ∨ s.N.toNat ≠ s.PLEN.toNat / 64 then .next (s.raise .malformedInput)
  else .next { s with J := 0, PHASE := .parsew }

/-- 41_block_parser R133: WBUF[J] <- be32 of PBUF[4J .. 4J+3]; the last one hands over to HINIT. -/
def execParsew (s : State) : Host.Outcome State Fault Refusal :=
  let j := s.J.toNat
  withIndex .pbuf (4 * j + 3) s (withIndex .wbuf j s (.next { s with
    WBUF := Memory.write s.WBUF j s.parsedWord
    J := s.J + 1
    PHASE := if j + 1 = 16 * s.N.toNat then .hinit else s.PHASE }))

end Sys2Proof.Machine
end

