-- ==== Sys2Proof/Machine/Compressor.lean ====
section
/-! DEFINITION. The Compressor: HINIT, SCHED, VARS, ROUND, CHAIN and FINISH (42_compressor R144 to R148, R155). -/

namespace Sys2Proof.Machine

/-- 42_compressor R144: H <- H_INIT, I <- 0, T <- 0. -/
def execHinit (s : State) : Host.Outcome State Fault Refusal :=
  .next { s with H := hInitTable, I := 0, T := 0, PHASE := .sched }

/-- 42_compressor R145: one word of the message schedule; WBUF is read only for T < 16. -/
def execSched (s : State) : Host.Outcome State Fault Refusal :=
  let t := s.T.toNat
  let out : Host.Outcome State Fault Refusal := withIndex .w t s (.next { s with
    W := s.W.setIfInBounds t s.schedWord
    T := s.T + 1
    PHASE := if t + 1 = 64 then .vars else s.PHASE })
  if t < 16 then withIndex .wbuf s.loadIndex s out else out

/-- 42_compressor R146: (a, .., h) <- (H[0], .., H[7]). -/
def execVars (s : State) : Host.Outcome State Fault Refusal :=
  .next { s with
    v := ⟨s.H[0], s.H[1], s.H[2], s.H[3], s.H[4], s.H[5], s.H[6], s.H[7]⟩
    T := 0
    PHASE := .round }

/-- 42_compressor R147: the first sum of a round. -/
def roundT1 (v : WorkVars) (k w : Word) : Word := v.h + SUM1 v.e + CH v.e v.f v.g + k + w

/-- 42_compressor R147: the second sum of a round. -/
def roundT2 (v : WorkVars) : Word := SUM0 v.a + MAJ v.a v.b v.c

/-- 42_compressor R147: "simultaneous; right sides use the old values". -/
def execRound (s : State) : Host.Outcome State Fault Refusal :=
  let t := s.T.toNat
  let t1 := roundT1 s.v (kWord t) (s.wWord t)
  let t2 := roundT2 s.v
  withIndex .k t s (withIndex .w t s (.next { s with
    v := ⟨t1 + t2, s.v.a, s.v.b, s.v.c, s.v.d + t1, s.v.e, s.v.f, s.v.g⟩
    T := s.T + 1
    PHASE := if t + 1 = 64 then .chain else s.PHASE }))

/-- 42_compressor R148: the element-wise sum of the hash state and the working variables. -/
def chainSum (h : Vector Word 8) (v : WorkVars) : Vector Word 8 :=
  #v[h[0] + v.a, h[1] + v.b, h[2] + v.c, h[3] + v.d, h[4] + v.e, h[5] + v.f, h[6] + v.g, h[7] + v.h]

/-- 42_compressor R148: the chaining update; the next block if I + 1 < N (as numbers), else FINISH. -/
def execChain (s : State) : Host.Outcome State Fault Refusal :=
  let more := s.I.toNat + 1 < s.N.toNat
  .next { s with
    H := chainSum s.H s.v
    I := s.I + 1
    T := if more then 0 else s.T
    PHASE := if more then .sched else .finish }

/-- 42_compressor R155: D <- H, which makes D valid; DONE <- 1; PHASE <- IDLE. -/
def execFinish (s : State) : Host.Outcome State Fault Refusal :=
  .next { s with D := some s.H, DONE := true, PHASE := .idle }

end Sys2Proof.Machine
end

