-- ==== Sys2Proof/Machine/HostAccess.lean ====
section
/-! DEFINITION. The host rows: RREG, WREG, RMSG, WMSG and START (43_host_interface R181 to R185). -/

namespace Sys2Proof.Machine

/-- 43_host_interface R181: "No state changes, whatever n is"; the answer goes to the host (log 7). -/
def execRreg (n : DWord) (s : State) : Host.Outcome State Fault Refusal :=
  match s.registerValue n with
  | some r => .next (s.answer r)
  | none => .next (s.answerFree (unspecifiedAnswer n))

/-- 43_host_interface R182: CMD takes START from data[31:0] = 1, LEN is stored while idle, any other number drops the
write. -/
def execWreg (n v : DWord) (s : State) : Host.Outcome State Fault Refusal :=
  if n = 0 then
    if v.extractLsb' 0 32 = 1 then .next s.startCall else .next s
  else if n = 2 then
    if s.busy then .next s else .next { s with LEN := v }
  else .next s

/-- 43_host_interface R183. -/
def execRmsg (j : DWord) (s : State) : Host.Outcome State Fault Refusal :=
  if j.toNat < s.msgCap then .next (s.answer (.byte (s.msgByte j.toNat)))
  else .next (s.answerFree fun k => .byte (Config.freeByte k))

/-- 43_host_interface R184: dropped while BUSY or out of range. -/
def execWmsg (j : DWord) (b : Byte) (s : State) : Host.Outcome State Fault Refusal :=
  if s.busy = false ∧ j.toNat < s.msgCap then .next { s with MSG := Memory.write s.MSG j.toNat b }
  else .next s

/-- 43_host_interface R185. -/
def execStart (s : State) : Host.Outcome State Fault Refusal := .next s.startCall

end Sys2Proof.Machine
end

