-- ==== Sys2Proof/Machine/Padder.lean ====
section
/-! DEFINITION. The length check and the Padder: LCHK (43_host_interface R186), PSIZE and PADB (40_padder R115, R116). -/

namespace Sys2Proof.Machine

/-- 43_host_interface R186: LengthOverflow exactly when LEN ≥ 2^61. -/
def execLchk (s : State) : Host.Outcome State Fault Refusal :=
  if 2 ^ 61 ≤ s.LEN.toNat then .next (s.raise .lengthOverflow)
  else .next { s with PHASE := .psize }

/-- 40_padder R115: "if nb > NMAX then raise AllocationFailure()   -- no register is written". The values are exact and
then stored (00_scope R10; log 11). -/
def execPsize (s : State) : Host.Outcome State Fault Refusal :=
  let n := s.LEN.toNat
  if s.NMAX < nblocks n then .next (s.raise .allocationFailure)
  else .next { s with
    L := BitVec.ofNat 64 (bitlen n)
    KPAD := BitVec.ofNat 10 (kpad n)
    PLEN := BitVec.ofNat 64 (padlen n)
    N := BitVec.ofNat 64 (nblocks n)
    J := 0
    PHASE := .padb }

/-- 40_padder R116: one byte, PBUF[J] <- b; the last one hands over to PCHK. MSG is read only for J < LEN. -/
def execPadb (s : State) : Host.Outcome State Fault Refusal :=
  let j := s.J.toNat
  let out : Host.Outcome State Fault Refusal := withIndex .pbuf j s (.next { s with
    PBUF := Memory.write s.PBUF j s.padByte
    J := s.J + 1
    PHASE := if j + 1 = s.PLEN.toNat then .pchk else s.PHASE })
  if j < s.LEN.toNat then withIndex .msg j s out else out

end Sys2Proof.Machine
end

