-- ==== Sys2Proof/Machine/Dispatch.lean ====
section
/-! DEFINITION. One arm per constructor of Instr (30_encoding R90). -/

namespace Sys2Proof.Machine

def exec (i : Instr) (s : State) : Host.Outcome State Fault Refusal :=
  match i with
  | .rreg n => Sys2Proof.Machine.execRreg n s
  | .wreg n v => Sys2Proof.Machine.execWreg n v s
  | .rmsg j => Sys2Proof.Machine.execRmsg j s
  | .wmsg j b => Sys2Proof.Machine.execWmsg j b s
  | .start => Sys2Proof.Machine.execStart s
  | .lchk => Sys2Proof.Machine.execLchk s
  | .psize => Sys2Proof.Machine.execPsize s
  | .padb => Sys2Proof.Machine.execPadb s
  | .pchk => Sys2Proof.Machine.execPchk s
  | .parsew => Sys2Proof.Machine.execParsew s
  | .hinit => Sys2Proof.Machine.execHinit s
  | .sched => Sys2Proof.Machine.execSched s
  | .vars => Sys2Proof.Machine.execVars s
  | .round => Sys2Proof.Machine.execRound s
  | .chain => Sys2Proof.Machine.execChain s
  | .finish => Sys2Proof.Machine.execFinish s

end Sys2Proof.Machine
end

