-- ==== Sys2Proof/Machine/Step.lean ====
section
/-! DEFINITION. One step of an execution: one turn, of the engine, of the host or of the reset input (00_scope R12,
20_memory R72, 70_reset_and_hazards R240). -/

namespace Sys2Proof.Machine

/-- A code's operation is performed; IDLE selects none and "the engine takes no step" (30_encoding R95; log 6). -/
def stepCode (c : Code) (s : State) : Host.Outcome State Fault Refusal :=
  match decode c with
  | .ok i => exec i s
  | .error .idle => .next s
  | .error _ => .refused .unusedPhase

/-- One step: the turn is taken off the script, then it happens. -/
def step (s : State) : Host.Outcome State Fault Refusal :=
  match s.turn with
  | .engine => stepCode (.phase s.PHASE.code) s.afterTurn
  | .host d => stepCode (.host d) s.afterTurn
  | .reset => .next s.afterTurn.applyReset

/-- The state whose very next step performs the operation a table word selects: a PHASE code is put into PHASE and the
turn given to the engine, a descriptor is the host's next turn (log 8). A number that is no code leaves the state as it
is. -/
def State.withFetchWord (s : State) (nbits w : Nat) : State :=
  match codeOfNumber nbits w with
  | .error _ => s
  | .ok (.host d) => { s with script := .host d :: s.script }
  | .ok (.phase c) =>
    match Phase.ofCode c with
    | some p => { s with PHASE := p, script := .engine :: s.script }
    | none => s

end Sys2Proof.Machine
end

