-- ==== Sys2Proof/Machine/HostProgram.lean ====
section
/-! DEFINITION. Host programs (30_encoding R100): the pseudo-instructions as lists of host accesses, a list of
accesses as the host's turns, and whole programs, `wait` among their lines, run at a given pace (log 23). -/

namespace Sys2Proof.Machine

/-- `putmsg` from an index on: one WMSG per byte (30_encoding R100). -/
def putMsgFrom : Nat → List Byte → List Instr
  | _, [] => []
  | i, b :: m => .wmsg (BitVec.ofNat 64 i) b :: putMsgFrom (i + 1) m

/-- `putmsg b0 b1 …`: "one WMSG per byte, index from 0". -/
def putMsg (m : List Byte) : List Instr := putMsgFrom 0 m

/-- `setlen n` is `wreg LEN, n`. -/
def setLen (n : Nat) : List Instr := [.wreg 2 (BitVec.ofNat 64 n)]

/-- `getdigest` is `rreg D0 ; … ; rreg D7`. -/
def getDigest : List Instr := (List.range 8).map fun i => .rreg (BitVec.ofNat 64 (8 + i))

/-- The call of `hash` up to its START (43_host_interface R180): write the message and its length, then start. -/
def hashCall (m : List Byte) : List Instr := putMsg m ++ setLen m.length ++ [.start]

/-- Host accesses as host turns; an engine operation is no host access and makes no turn. -/
def hostTurns : List Instr → List Turn
  | [] => []
  | i :: p =>
    match encode i with
    | .host d => .host d :: hostTurns p
    | .phase _ => hostTurns p

/-! ### Programs with `wait` -/

/-- One line of a host program (30_encoding R100): an access, or `wait`, which is "Not one access but a loop". -/
inductive HostLine where
  | access (i : Instr)
  | wait
deriving DecidableEq, Repr

/-- `hash`: "putmsg ; setlen <byte count> ; start ; wait ; rreg STATUS ; getdigest". -/
def hashProgram (m : List Byte) : List HostLine :=
  (hashCall m).map .access ++ (.wait :: (.rreg 1 :: getDigest).map .access)

/-- The next part of a run, if the part before it goes on. -/
def andThen {α β : Type} (o : Host.Outcome α Fault Refusal) (f : α → Host.Outcome β Fault Refusal) :
    Host.Outcome β Fault Refusal :=
  match o with
  | .next s => f s
  | .fault r => .fault r
  | .refused r => .refused r

/-- One turn that comes before those of the script. -/
def State.takeTurn (u : Turn) (s : State) : Host.Outcome State Fault Refusal := step { s with script := u :: s.script }

/-- A number of turns of the engine. -/
def engineTurns : Nat → State → Host.Outcome State Fault Refusal
  | 0, s => .next s
  | n + 1, s => andThen (s.takeTurn .engine) (engineTurns n)

/-- One access of the host; an engine operation is no host access and takes no turn. -/
def hostAccess (i : Instr) (s : State) : Host.Outcome State Fault Refusal :=
  match encode i with
  | .host d => s.takeTurn (.host d)
  | .phase _ => .next s

/-- Bit 0 (BUSY) of the value read last (10_state R29). -/
def State.readBusy (s : State) : Bool :=
  match s.returned with
  | .word w :: _ => w.getLsbD 0
  | _ => false

/-- Running a host program. Before each access the engine takes the number of turns the pace gives next ("Between any two
lines the engine may take any number of steps, including none"); `wait` is "repeat rreg STATUS until the value read has
bit 0 (BUSY) = 0". The answer is the state and the lines still to do: none of them, unless the pace ends first. -/
def runProgram : List Nat → List HostLine → State → Host.Outcome (State × List HostLine) Fault Refusal
  | [], p, s => .next (s, p)
  | _ :: _, [], s => .next (s, [])
  | n :: pace, .access i :: p, s =>
    andThen (engineTurns n s) fun u => andThen (hostAccess i u) fun t => runProgram pace p t
  | n :: pace, .wait :: p, s =>
    andThen (engineTurns n s) fun u => andThen (hostAccess (.rreg 1) u) fun t =>
      runProgram pace (if t.readBusy then .wait :: p else p) t

end Sys2Proof.Machine
end

