-- ==== Sys2Proof/Machine/Reference.lean ====
section
/-! DEFINITION. The stages as mathematical functions (00_scope R14): pad (40_padder R112), parse (41_block_parser R131),
compress (42_compressor R156, R157) and sha256 (43_host_interface R180). No operation calls them; claims compare the
operations with them. -/

namespace Sys2Proof.Machine

/-- 40_padder R112: m ++ [0x80] ++ zero bytes ++ the 8-byte big-endian bit length. -/
def pad (m : List Byte) : List Byte :=
  m ++ [0x80] ++ List.replicate (zpad m.length) 0x00 ++ be64 (BitVec.ofNat 64 (bitlen m.length))

/-- 41_block_parser R131: "walk the buffer 4 bytes at a time; each group of 4 bytes becomes one big-endian word". -/
def parse : List Byte → List Word
  | b0 :: b1 :: b2 :: b3 :: rest => be32 b0 b1 b2 b3 :: parse rest
  | _ => []

/-- 41_block_parser R134: block i is the words 16·i .. 16·i+15. -/
def blockWords (ws : List Word) (i : Nat) : List Word := (ws.drop (16 * i)).take 16

/-- 42_compressor R156: the next schedule word, at t = the number of words there are. -/
def schedNext (w : List Word) : Word :=
  let t := w.length
  SIG1 (w.getD (t - 2) 0) + w.getD (t - 7) 0 + SIG0 (w.getD (t - 15) 0) + w.getD (t - 16) 0

/-- The schedule with k more words. -/
def schedExtend : Nat → List Word → List Word
  | 0, w => w
  | k + 1, w => schedExtend k (w ++ [schedNext w])

/-- 42_compressor R156: sched(M), the 64 schedule words of a block of 16. -/
def schedule (m : List Word) : List Word := schedExtend 48 m

/-- 42_compressor R156: round(v, k, w). -/
def roundFn (v : Vector Word 8) (k w : Word) : Vector Word 8 :=
  let t1 := v[7] + SUM1 v[4] + CH v[4] v[5] v[6] + k + w
  let t2 := SUM0 v[0] + MAJ v[0] v[1] v[2]
  #v[t1 + t2, v[0], v[1], v[2], v[3] + t1, v[4], v[5], v[6]]

/-- 42_compressor R156: v_t, with v_0 = S and v_(t+1) = round(v_t, K[t], sched(M)[t]). -/
def roundsUpTo (s : Vector Word 8) (m : List Word) : Nat → Vector Word 8
  | 0 => s
  | t + 1 => roundFn (roundsUpTo s m t) (kWord t) ((schedule m).getD t 0)

/-- 42_compressor R156: compress_block(S, M)[j] = S[j] + rounds(S, M)[j]. -/
def compressBlock (s : Vector Word 8) (m : List Word) : Vector Word 8 :=
  Vector.zipWith (· + ·) s (roundsUpTo s m 64)

/-- 42_compressor R157: S_i, the chaining value before block i. -/
def chainState (ws : List Word) : Nat → Vector Word 8
  | 0 => hInitTable
  | i + 1 => compressBlock (chainState ws i) (blockWords ws i)

/-- 42_compressor R157: compress(ws, N) = S_N. -/
def compress (ws : List Word) (n : Nat) : Vector Word 8 := chainState ws n

/-- 43_host_interface R180: sha256(m) = compress(parse(pad(m)), nblocks(n)). -/
def sha256 (m : List Byte) : Vector Word 8 := compress (parse (pad m)) (nblocks m.length)

/-- 10_state R21: the working variables as a vector, v[0] = a, .. v[7] = h. -/
def WorkVars.toVector (v : WorkVars) : Vector Word 8 := #v[v.a, v.b, v.c, v.d, v.e, v.f, v.g, v.h]

/-- 20_memory R61: "the message is MSG[0 .. LEN−1]". -/
def State.message (s : State) : List Byte := (List.range s.LEN.toNat).map s.msgByte

/-- The parsed words of the padded message of a state. -/
def State.messageWords (s : State) : List Word := parse (pad s.message)

/-- 43_host_interface R191: the phases of the compression of one block, in order. -/
def blockPhases : List Phase :=
  (List.replicate 64 Phase.sched).append (Phase.vars :: (List.replicate 64 Phase.round).append [Phase.chain])

/-- The phases of the compression of n blocks. -/
def blocksPhases : Nat → List Phase
  | 0 => []
  | n + 1 => blockPhases.append (blocksPhases n)

/-- 43_host_interface R191: the phases the engine's steps perform in a successful run of n blocks, in order. -/
def runPhases (n : Nat) : List Phase :=
  Phase.lchk :: Phase.psize :: (List.replicate (64 * n) Phase.padb).append
    (Phase.pchk :: (List.replicate (16 * n) Phase.parsew).append
      (Phase.hinit :: (blocksPhases n).append [Phase.finish]))

/-- 70_reset_and_hazards R249: the number of engine steps of a successful run of n blocks. -/
def runSteps (n : Nat) : Nat := 210 * n + 5

end Sys2Proof.Machine
end

