-- ==== Sys2Proof/Safety.lean ====
section
/-! DEFINITION. What counts as a safe run: the control invariant, which holds at reset and is kept by every turn and under
which no step stops, and the data invariant, which ties every buffer of a run to the reference functions. -/

namespace Sys2Proof.Safety

open Sys2Proof.Machine

/-- PSIZE has sized the message and it fits (40_padder R111, R115). -/
structure Sized (s : State) : Prop where
  lenOk    : s.LEN.toNat < 2 ^ 61
  bits     : s.L.toNat = bitlen s.LEN.toNat
  zeros    : s.KPAD.toNat = kpad s.LEN.toNat
  padded   : s.PLEN.toNat = padlen s.LEN.toNat
  blocks   : s.N.toNat = nblocks s.LEN.toNat
  capacity : s.N.toNat ≤ s.NMAX

/-- Storage is canonical and every listed index exists (20_memory R60). -/
structure MemoryInv (s : State) : Prop where
  msgForm   : Memory.wf s.MSG = true
  pbufForm  : Memory.wf s.PBUF = true
  wbufForm  : Memory.wf s.WBUF = true
  msgBelow  : Memory.below (Space.msg.size s.NMAX) s.MSG = true
  pbufBelow : Memory.below (Space.pbuf.size s.NMAX) s.PBUF = true
  wbufBelow : Memory.below (Space.wbuf.size s.NMAX) s.WBUF = true

/-- The flags (10_state R35: "Invariants that hold in every reachable state") and the validity of the results (R24,
R31). -/
structure FlagsInv (s : State) : Prop where
  exclusive   : ¬ (s.DONE = true ∧ s.ERROR = true)
  errcode     : s.ERRCODE ≠ 0 ↔ s.ERROR = true
  ended       : (s.DONE = true ∨ s.ERROR = true) → s.busy = false
  digestValid : s.D.isSome = s.DONE
  results     : s.DONE = true → 1 ≤ s.N.toNat ∧ s.N.toNat ≤ s.NMAX ∧ s.PLEN.toNat = 64 * s.N.toNat

/-- Where each phase finds the counters (10_state R26 and the preconditions of R116, R133, R145, R147). -/
structure CounterInv (s : State) : Prop where
  checked : s.PHASE ∉ [Phase.idle, .lchk] → s.LEN.toNat < 2 ^ 61
  sized   : s.PHASE ∉ [Phase.idle, .lchk, .psize] → Sized s
  padding : s.PHASE = .padb → s.J.toNat < s.PLEN.toNat
  padEnd  : s.PHASE = .pchk → s.J.toNat = s.PLEN.toNat
  parsing : s.PHASE = .parsew → s.J.toNat < 16 * s.N.toNat
  parseEnd : s.PHASE = .hinit → s.J.toNat = 16 * s.N.toNat
  block   : s.PHASE ∈ [Phase.sched, .vars, .round, .chain] → s.I.toNat < s.N.toNat
  lastBlock : s.PHASE = .finish → s.I.toNat = s.N.toNat
  index   : s.PHASE ∈ [Phase.sched, .round] → s.T.toNat < 64
  indexEnd : s.PHASE ∈ [Phase.vars, .chain] → s.T.toNat = 64

/-- The control invariant. -/
structure ControlInv (s : State) : Prop where
  capacity : Config.LegalCapacity s.NMAX
  memory   : MemoryInv s
  flags    : FlagsInv s
  counters : CounterInv s

/-- What the buffers and registers of a run hold, phase by phase, in terms of the message MSG[0 .. LEN−1] (40_padder R118,
41_block_parser R135, 42_compressor R158). -/
structure DataInv (s : State) : Prop where
  paddedTo : s.PHASE = .padb → ∀ k < s.J.toNat, (pad s.message)[k]? = some (s.pbufByte k)
  padded   : s.PHASE ∈ [Phase.pchk, .parsew] → ∀ k < s.PLEN.toNat, (pad s.message)[k]? = some (s.pbufByte k)
  parsedTo : s.PHASE = .parsew → ∀ w < s.J.toNat, s.messageWords[w]? = some (s.wbufWord w)
  parsed   : s.PHASE ∈ [Phase.hinit, .sched, .vars, .round, .chain] →
    ∀ w < 16 * s.N.toNat, s.messageWords[w]? = some (s.wbufWord w)
  chained  : s.PHASE ∈ [Phase.sched, .vars, .round, .chain] → s.H = chainState s.messageWords s.I.toNat
  schedTo  : s.PHASE = .sched → ∀ t < s.T.toNat,
    (schedule (blockWords s.messageWords s.I.toNat))[t]? = some (s.wWord t)
  sched    : s.PHASE ∈ [Phase.vars, .round, .chain] → ∀ t < 64,
    (schedule (blockWords s.messageWords s.I.toNat))[t]? = some (s.wWord t)
  rounds   : s.PHASE ∈ [Phase.round, .chain] →
    s.v.toVector = roundsUpTo s.H (blockWords s.messageWords s.I.toNat) s.T.toNat
  digest   : s.PHASE = .finish → s.H = sha256 s.message

/-- A step that goes on: neither a fault nor a refusal. -/
def Continues (s : State) : Prop := ∃ t, step s = .next t

/-- The script holds no reset: only the engine and the host take turns. -/
def NoReset (s : State) : Prop := Turn.reset ∉ s.script

/-- After k turns from s the machine is in t. -/
def RunsTo (k : Nat) (s t : State) : Prop := Host.Core.run Sys2Proof.core k s = .next t

/-- From s, the first state with PHASE = IDLE comes after exactly k turns and is t (70_reset_and_hazards R251: the end of a
run). -/
def EndsAfter (k : Nat) (s t : State) : Prop :=
  RunsTo k s t ∧ t.PHASE = .idle ∧ ∀ j < k, ∀ u, RunsTo j s u → u.PHASE ≠ .idle

/-- The state right after an accepted START (43_host_interface R185). -/
structure JustStarted (s : State) : Prop where
  phase   : s.PHASE = .lchk
  done    : s.DONE = false
  error   : s.ERROR = false
  errcode : s.ERRCODE = 0
  digest  : s.D = none

end Sys2Proof.Safety
end

