-- ==== Sys2Proof/Certificates/Slice0/Obligations.lean ====
section
/-! DEFINITION. The statements for the provers. Each docstring names the rule of spec/ it formalises. Values the model
chose (notes/assumptions) are named where a statement touches one; no statement rests on what a free value is. -/

open Sys2Proof Sys2Proof.Machine Sys2Proof.Safety

/-! ### Encoding and turns -/

/-- 30_encoding R91, R95 and opcode_table.json: decoding the code of a well-formed instruction gives it back, with every
operand at every value. -/
def Obligations.DecodeOfEncodeIsIdentity : Prop :=
  ∀ i : Instr, i.WellFormed → decode (encode i) = .ok i

/-- opcode_table.json: a code selects the instruction of the first row it matches (START tried before WREG), and where it
matches no row it selects none. -/
def Obligations.DecodeFollowsOpcodeTable : Prop :=
  ∀ c : Code,
    (∀ i, decode c = .ok i → (rowOf c).map TableRow.mnemonic = some i.mnemonic) ∧
    ((∀ i, decode c ≠ .ok i) → rowOf c = none)

/-- 30_encoding R91: "All four kinds are defined, so no descriptor is illegal"; and the term a descriptor decodes to is
the well-formed spelling. -/
def Obligations.EveryDescriptorIsAHostAccess : Prop :=
  ∀ d : BitVec 130, ∃ i : Instr, decode (.host d) = .ok i ∧ i.WellFormed ∧
    ((∃ n, i = .rreg n) ∨ (∃ n v, i = .wreg n v) ∨ (∃ j, i = .rmsg j) ∨ (∃ j b, i = .wmsg j b) ∨ i = .start)

/-- Words written out from 30_encoding R91 and R95 and from 95_test_vectors sections 1, 7 and 9 decode to the accesses
and operations they stand for: eight descriptors and five PHASE codes, and two codes that stand for none. That a number of
136 bits is read as a descriptor and one of 8 bits as a PHASE code is the model's choice (log 15). -/
def Obligations.SpecWordsDecode : Prop :=
  decodeTableWord 136 0x000000000000000010000000000000000 = some (.rreg 1) ∧
  decodeTableWord 136 0x100000000000000020000000000000003 = some (.wreg 2 3) ∧
  decodeTableWord 136 0x200000000000000000000000000000000 = some (.rmsg 0) ∧
  decodeTableWord 136 0x300000000000000020000000000000063 = some (.wmsg 2 0x63) ∧
  decodeTableWord 136 0x300000000000000000000000000000161 = some (.wmsg 0 0x61) ∧
  decodeTableWord 136 0x100000000000000000000000000000001 = some .start ∧
  decodeTableWord 136 0x100000000000000000000000100000001 = some .start ∧
  decodeTableWord 136 0x100000000000000000000000000000002 = some (.wreg 0 2) ∧
  decodeTableWord 8 0x0 = none ∧ decodeTableWord 8 0x1 = some .lchk ∧ decodeTableWord 8 0x3 = some .padb ∧
  decodeTableWord 8 0x5 = some .parsew ∧ decodeTableWord 8 0x9 = some .round ∧ decodeTableWord 8 0xb = some .finish ∧
  decodeTableWord 8 0xc = none

/-- 30_encoding R90, R94, R95 and 00_scope R12: a step takes its turn off the script (the model's own list, log 5) and is
`exec` of the operation the turn selects; with PHASE = IDLE an engine turn does nothing (log 6). -/
def Obligations.StepRunsTheSelectedOperation : Prop :=
  ∀ s : State,
    (∀ i, s.turn = .engine → decode (.phase s.PHASE.code) = .ok i →
      step s = exec i { s with script := s.script.tail }) ∧
    (∀ d i, s.turn = .host d → decode (.host d) = .ok i →
      step s = exec i { s with script := s.script.tail }) ∧
    (s.turn = .engine → s.PHASE = .idle → step s = .next { s with script := s.script.tail }) ∧
    (s.script = [] → s.turn = .engine)

/-! ### Reset -/

/-- 10_state R36: what the spec fixes of the state after reset. -/
def Obligations.ResetStateValues : Prop :=
  State.reset.PHASE = .idle ∧ State.reset.DONE = false ∧ State.reset.ERROR = false ∧ State.reset.ERRCODE = 0 ∧
  State.reset.LEN = 0 ∧ State.reset.D = none ∧
  (∀ i, Memory.find State.reset.MSG i = none) ∧ (∀ i, Memory.find State.reset.PBUF i = none) ∧
  (∀ i, Memory.find State.reset.WBUF i = none)

/-- 70_reset_and_hazards R240, R241: a reset turn gives the reset state at any time, also during a run. That NMAX, the
turns to come and the answers given stay is the model's (logs 1, 5, 7, 16). -/
def Obligations.ResetTurnGivesResetState : Prop :=
  ∀ (s : State) (rest : List Turn), s.script = .reset :: rest →
    ∃ t, step s = .next t ∧ t.PHASE = .idle ∧ t.DONE = false ∧ t.ERROR = false ∧ t.ERRCODE = 0 ∧ t.LEN = 0 ∧
      t.D = none ∧ (∀ i, Memory.find t.MSG i = none) ∧ (∀ i, Memory.find t.PBUF i = none) ∧
      (∀ i, Memory.find t.WBUF i = none) ∧
      t.NMAX = s.NMAX ∧ t.script = rest ∧ t.returned = s.returned ∧ t.resetCount = s.resetCount + 1

/-- The invariants hold at reset, for every legal NMAX (10_state R35, R36, 00_scope R7). -/
def Obligations.InvariantsHoldAtReset : Prop :=
  ∀ n : Nat, Config.LegalCapacity n →
    ControlInv { State.reset with NMAX := n } ∧ DataInv { State.reset with NMAX := n }

/-! ### Invariants of every step -/

/-- 10_state R26, R35, 20_memory R77, 40_padder R116, 41_block_parser R133, 42_compressor R145, R147: the control
invariant is kept by every turn of the engine, of the host and of the reset input. -/
def Obligations.StepKeepsControlInvariant : Prop :=
  ∀ s t : State, ControlInv s → step s = .next t → ControlInv t

/-- 40_padder R118, 41_block_parser R135, 42_compressor R158: at every step of a run every buffer holds what the reference
functions give for MSG[0 .. LEN−1], whatever host accesses fall between the engine's steps. -/
def Obligations.StepKeepsDataInvariant : Prop :=
  ∀ s t : State, ControlInv s → DataInv s → step s = .next t → DataInv t

/-- 70_reset_and_hazards R249 and 20_memory R77: in a state that meets the control invariant every turn can be taken; the
model's own faults and refusals (logs 9 and 12) never happen. -/
def Obligations.ControlledStepNeverStops : Prop :=
  ∀ s : State, ControlInv s → Continues s

/-- 10_state R35 and 95_test_vectors section 1: the six values STATUS can have. -/
def Obligations.StatusHasSixValues : Prop :=
  ∀ s : State, ControlInv s →
    (s.PHASE ≠ .idle → s.status = 0x00000001) ∧
    (s.PHASE = .idle → s.DONE = true → s.status = 0x00000002) ∧
    (s.PHASE = .idle → s.DONE = false → s.status = 0x00000000 ∨ s.status = 0x0000000c ∨ s.status = 0x00000014 ∨
      s.status = 0x0000001c)

/-- 41_block_parser R136: MalformedInput cannot occur in a run: in a state of the control invariant PCHK always goes
on. -/
def Obligations.PchkNeverFailsInARun : Prop :=
  ∀ s : State, ControlInv s → s.PHASE = .pchk → exec .pchk s = .next { s with J := 0, PHASE := .parsew }

/-! ### Host accesses -/

/-- 10_state R29: the STATUS word. That a read puts its answer at the front of the list `returned` is the model's choice
(log 7). -/
def Obligations.StatusWordLayout : Prop :=
  ∀ s : State,
    s.status.getLsbD 0 = decide (s.PHASE ≠ .idle) ∧ s.status.getLsbD 1 = s.DONE ∧ s.status.getLsbD 2 = s.ERROR ∧
    s.status.extractLsb' 3 2 = s.ERRCODE ∧ s.status.extractLsb' 5 27 = 0 ∧
    exec (.rreg 1) s = .next { s with returned := .word s.status :: s.returned } ∧
    (∀ v, exec (.wreg 1 v) s = .next s)

/-- 43_host_interface R181: what RREG returns for each register number, and that nothing of the engine changes. Where the
value is unspecified the answer is the free value of this read, a fresh one at each read, of the width log 19 says. The
free constants and their counter are the model's (log 4), and so is the list of answers (log 7). D is some eight words
whenever DONE = 1 (R24, FlagsInv.digestValid). -/
def Obligations.RregAnswers : Prop :=
  ∀ (s : State) (n : DWord),
    (n = 1 → exec (.rreg n) s = .next { s with returned := .word (BitVec.ofNat 32 (s.ERRCODE.toNat * 8 +
      s.ERROR.toNat * 4 + s.DONE.toNat * 2 + (if s.PHASE = .idle then 0 else 1))) :: s.returned }) ∧
    (n = 1 → FlagsInv s → s.PHASE ≠ .idle →
      exec (.rreg n) s = .next { s with returned := .word 0x00000001 :: s.returned }) ∧
    (n = 2 → exec (.rreg n) s = .next { s with returned := .dword s.LEN :: s.returned }) ∧
    (n = 3 → s.DONE = true → exec (.rreg n) s = .next { s with returned := .dword s.N :: s.returned }) ∧
    (n = 4 → s.DONE = true → exec (.rreg n) s = .next { s with returned := .dword s.PLEN :: s.returned }) ∧
    (∀ (i : Fin 8) (d : Vector Word 8), n.toNat = 8 + i.val → s.DONE = true → s.D = some d →
      exec (.rreg n) s = .next { s with returned := .word d[i] :: s.returned }) ∧
    (n = 3 ∨ n = 4 → s.DONE = false → exec (.rreg n) s = .next { s with
      returned := .dword (Config.freeDWord s.freeCount) :: s.returned, freeCount := s.freeCount + 1 }) ∧
    (8 ≤ n.toNat → n.toNat ≤ 15 → s.DONE = false → exec (.rreg n) s = .next { s with
      returned := .word (Config.freeWord s.freeCount) :: s.returned, freeCount := s.freeCount + 1 }) ∧
    (n = 0 → exec (.rreg n) s = .next { s with
      returned := .word (Config.freeWord s.freeCount) :: s.returned, freeCount := s.freeCount + 1 }) ∧
    ((5 ≤ n.toNat ∧ n.toNat ≤ 7) ∨ 16 ≤ n.toNat → exec (.rreg n) s = .next { s with
      returned := Config.freeRead s.freeCount :: s.returned, freeCount := s.freeCount + 1 })

/-- 43_host_interface R182: the three cases of WREG. -/
def Obligations.WregEffects : Prop :=
  ∀ (s : State) (n v : DWord),
    (n = 0 → v.extractLsb' 0 32 = 1 → s.PHASE = .idle → exec (.wreg n v) s = .next { s with
      DONE := false, ERROR := false, ERRCODE := 0, D := none, PHASE := .lchk }) ∧
    (n = 0 → v.extractLsb' 0 32 = 1 → s.PHASE ≠ .idle → exec (.wreg n v) s = .next s) ∧
    (n = 0 → v.extractLsb' 0 32 ≠ 1 → exec (.wreg n v) s = .next s) ∧
    (n = 2 → s.PHASE = .idle → exec (.wreg n v) s = .next { s with LEN := v }) ∧
    (n = 2 → s.PHASE ≠ .idle → exec (.wreg n v) s = .next s) ∧
    (n ≠ 0 → n ≠ 2 → exec (.wreg n v) s = .next s)

/-- 43_host_interface R183 and 20_memory R64, R77: RMSG returns the byte last written at an index of MSG; a byte not
written since reset has a free content fixed at reset (log 3), and out of range the answer is free (log 4). The list of answers is the model's
(log 7). -/
def Obligations.RmsgAnswers : Prop :=
  ∀ (s : State) (j : DWord),
    (∀ b, j.toNat < 64 * s.NMAX - 9 → Memory.find s.MSG j.toNat = some b →
      exec (.rmsg j) s = .next { s with returned := .byte b :: s.returned }) ∧
    (j.toNat < 64 * s.NMAX - 9 → Memory.find s.MSG j.toNat = none →
      exec (.rmsg j) s = .next { s with
        returned := .byte (Config.unwrittenMsg s.resetCount j.toNat) :: s.returned }) ∧
    (64 * s.NMAX - 9 ≤ j.toNat → exec (.rmsg j) s = .next { s with
      returned := .byte (Config.freeByte s.freeCount) :: s.returned, freeCount := s.freeCount + 1 })

/-- 43_host_interface R184: WMSG stores one byte while idle and in range, every other byte of every space and everything
else as before; otherwise nothing. -/
def Obligations.WmsgEffects : Prop :=
  ∀ (s : State) (j : DWord) (b : Byte),
    (s.PHASE = .idle → j.toNat < 64 * s.NMAX - 9 →
      ∃ t, exec (.wmsg j b) s = .next t ∧ t = { s with MSG := t.MSG } ∧
        ∀ k, t.msgByte k = if k = j.toNat then b else s.msgByte k) ∧
    (s.PHASE ≠ .idle ∨ 64 * s.NMAX - 9 ≤ j.toNat → exec (.wmsg j b) s = .next s)

/-- 43_host_interface R185: START while idle clears the flags, makes D invalid and selects LCHK; while BUSY it does
nothing. -/
def Obligations.StartEffects : Prop :=
  ∀ s : State,
    (s.PHASE = .idle → exec .start s = .next { s with
      DONE := false, ERROR := false, ERRCODE := 0, D := none, PHASE := .lchk }) ∧
    (s.PHASE ≠ .idle → exec .start s = .next s)

/-- 20_memory R72, R74, 70_reset_and_hazards R244, R245, R247: a host turn while BUSY changes nothing but the answers and
the free counter, which are the model's own (logs 4, 5, 7). -/
def Obligations.HostTurnWhileBusyChangesNothing : Prop :=
  ∀ (s : State) (d : BitVec 130) (rest : List Turn), s.PHASE ≠ .idle → s.script = .host d :: rest →
    ∃ t, step s = .next t ∧
      t = { s with script := rest, returned := t.returned, freeCount := t.freeCount }

/-- 60_exceptions R227: the events that are not errors have no effect; reads only give their answer, which the
model adds to its list of answers, taking a free value from its counter where the value is unspecified (logs 4 and 7). -/
def Obligations.EventsThatAreNotErrors : Prop :=
  ∀ (s : State) (n v j : DWord) (b : Byte),
    (v.extractLsb' 0 32 ≠ 1 → exec (.wreg 0 v) s = .next s) ∧
    (s.PHASE ≠ .idle → exec .start s = .next s ∧ exec (.wreg 2 v) s = .next s ∧ exec (.wmsg j b) s = .next s) ∧
    (n.toNat = 1 ∨ 3 ≤ n.toNat → exec (.wreg n v) s = .next s) ∧
    (64 * s.NMAX - 9 ≤ j.toNat → exec (.wmsg j b) s = .next s) ∧
    (∃ t, exec (.rreg n) s = .next t ∧ t = { s with returned := t.returned, freeCount := t.freeCount }) ∧
    (∃ t, exec (.rmsg j) s = .next t ∧ t = { s with returned := t.returned, freeCount := t.freeCount })

/-- 10_state R34: what a read returns is a function of what the host may see: STATUS, LEN, the bytes of MSG, and, while
DONE = 1, N, PLEN and D. (That free answers come in the order of the counter is the model's: log 4.) -/
def Obligations.HostReadsSeeOnlyTheHostView : Prop :=
  ∀ (s t s' t' : State) (i : Instr), (∃ n, i = .rreg n) ∨ (∃ j, i = .rmsg j) →
    s.status = t.status → s.LEN = t.LEN → s.NMAX = t.NMAX → (∀ k, s.msgByte k = t.msgByte k) →
    (s.DONE = true → s.N = t.N ∧ s.PLEN = t.PLEN ∧ s.D = t.D) →
    s.freeCount = t.freeCount → s.returned = t.returned →
    exec i s = .next s' → exec i t = .next t' → s'.returned = t'.returned

/-! ### The length check, the Padder and the Block Parser -/

/-- 43_host_interface R186: LCHK. -/
def Obligations.LchkEffects : Prop :=
  ∀ s : State,
    (2 ^ 61 ≤ s.LEN.toNat → exec .lchk s = .next { s with ERROR := true, ERRCODE := 3, PHASE := .idle }) ∧
    (s.LEN.toNat < 2 ^ 61 → exec .lchk s = .next { s with PHASE := .psize })

/-- 40_padder R115: PSIZE, with the exact values of the length functions (nothing wraps). -/
def Obligations.PsizeEffects : Prop :=
  ∀ s : State, s.LEN.toNat < 2 ^ 61 →
    (s.NMAX < nblocks s.LEN.toNat →
      exec .psize s = .next { s with ERROR := true, ERRCODE := 1, PHASE := .idle }) ∧
    (nblocks s.LEN.toNat ≤ s.NMAX →
      ∃ t, exec .psize s = .next t ∧
        t = { s with L := t.L, KPAD := t.KPAD, PLEN := t.PLEN, N := t.N, J := 0, PHASE := .padb } ∧
        t.L.toNat = 8 * s.LEN.toNat ∧ t.KPAD.toNat = kpad s.LEN.toNat ∧ t.PLEN.toNat = padlen s.LEN.toNat ∧
        t.N.toNat = nblocks s.LEN.toNat)

/-- 40_padder R116: PADB under its precondition J < PLEN, with the indices it uses in range (20_memory R77): the byte by
its four cases, stored at PBUF[J], every other byte as before. -/
def Obligations.PadbEffects : Prop :=
  ∀ s : State, s.J.toNat < s.PLEN.toNat → s.J.toNat < 64 * s.NMAX →
    (s.J.toNat < s.LEN.toNat → s.J.toNat < 64 * s.NMAX - 9) →
    ∃ t b, exec .padb s = .next t ∧
      t = { s with PBUF := t.PBUF, J := t.J, PHASE := t.PHASE } ∧
      (s.J.toNat < s.LEN.toNat → b = s.msgByte s.J.toNat) ∧
      (s.J.toNat = s.LEN.toNat → b = 0x80) ∧
      (s.LEN.toNat < s.J.toNat → s.J.toNat + 8 < s.PLEN.toNat → b = 0x00) ∧
      (s.LEN.toNat < s.J.toNat → s.PLEN.toNat ≤ s.J.toNat + 8 →
        b.toNat = s.L.toNat / 2 ^ (8 * (s.PLEN.toNat - 1 - s.J.toNat)) % 256) ∧
      (∀ k, t.pbufByte k = if k = s.J.toNat then b else s.pbufByte k) ∧
      t.J.toNat = s.J.toNat + 1 ∧
      (s.J.toNat + 1 = s.PLEN.toNat → t.PHASE = .pchk) ∧ (s.J.toNat + 1 ≠ s.PLEN.toNat → t.PHASE = s.PHASE)

/-- 41_block_parser R132: PCHK. -/
def Obligations.PchkEffects : Prop :=
  ∀ s : State,
    (s.PLEN.toNat % 64 ≠ 0 ∨ s.N.toNat ≠ s.PLEN.toNat / 64 →
      exec .pchk s = .next { s with ERROR := true, ERRCODE := 2, PHASE := .idle }) ∧
    (s.PLEN.toNat % 64 = 0 → s.N.toNat = s.PLEN.toNat / 64 →
      exec .pchk s = .next { s with J := 0, PHASE := .parsew })

/-- 41_block_parser R133: PARSEW under its precondition J < 16·N, with the indices it uses in range (20_memory R77): the
big-endian word (20_memory R65) stored at WBUF[J], every other word as before. -/
def Obligations.ParsewEffects : Prop :=
  ∀ s : State, Config.LegalCapacity s.NMAX → s.J.toNat < 16 * s.N.toNat → s.J.toNat < 16 * s.NMAX →
    ∃ t w, exec .parsew s = .next t ∧
      t = { s with WBUF := t.WBUF, J := t.J, PHASE := t.PHASE } ∧
      w.toNat = (s.pbufByte (4 * s.J.toNat)).toNat * 2 ^ 24 + (s.pbufByte (4 * s.J.toNat + 1)).toNat * 2 ^ 16 +
        (s.pbufByte (4 * s.J.toNat + 2)).toNat * 2 ^ 8 + (s.pbufByte (4 * s.J.toNat + 3)).toNat ∧
      (∀ k, t.wbufWord k = if k = s.J.toNat then w else s.wbufWord k) ∧
      t.J.toNat = s.J.toNat + 1 ∧
      (s.J.toNat + 1 = 16 * s.N.toNat → t.PHASE = .hinit) ∧
      (s.J.toNat + 1 ≠ 16 * s.N.toNat → t.PHASE = s.PHASE)

/-! ### The Compressor -/

/-- 42_compressor R144 with the values of R141: HINIT. -/
def Obligations.HinitEffects : Prop :=
  ∀ s : State, exec .hinit s = .next { s with
    H := #v[0x6a09e667, 0xbb67ae85, 0x3c6ef372, 0xa54ff53a, 0x510e527f, 0x9b05688c, 0x1f83d9ab, 0x5be0cd19]
    I := 0
    T := 0
    PHASE := .sched }

/-- 42_compressor R145: SCHED under its precondition T ≤ 63, with the index of WBUF it uses in range (20_memory R77):
loaded or expanded word stored at W[T], every other element as before. -/
def Obligations.SchedEffects : Prop :=
  ∀ s : State, s.T.toNat < 64 → (s.T.toNat < 16 → 16 * s.I.toNat + s.T.toNat < 16 * s.NMAX) →
    ∃ t x, exec .sched s = .next t ∧
      t = { s with W := t.W, T := t.T, PHASE := t.PHASE } ∧
      (s.T.toNat < 16 → x = s.wbufWord (16 * s.I.toNat + s.T.toNat)) ∧
      (16 ≤ s.T.toNat → x = SIG1 (s.wWord (s.T.toNat - 2)) + s.wWord (s.T.toNat - 7) +
        SIG0 (s.wWord (s.T.toNat - 15)) + s.wWord (s.T.toNat - 16)) ∧
      (∀ k < 64, t.wWord k = if k = s.T.toNat then x else s.wWord k) ∧
      t.T.toNat = s.T.toNat + 1 ∧
      (s.T.toNat = 63 → t.PHASE = .vars) ∧ (s.T.toNat ≠ 63 → t.PHASE = s.PHASE)

/-- 42_compressor R146: VARS. -/
def Obligations.VarsEffects : Prop :=
  ∀ s : State, ∃ t, exec .vars s = .next t ∧ t = { s with v := t.v, T := 0, PHASE := .round } ∧
    t.v.a = s.H[0] ∧ t.v.b = s.H[1] ∧ t.v.c = s.H[2] ∧ t.v.d = s.H[3] ∧
    t.v.e = s.H[4] ∧ t.v.f = s.H[5] ∧ t.v.g = s.H[6] ∧ t.v.h = s.H[7]

/-- 42_compressor R147 with the table K of R142: ROUND under its precondition T ≤ 63, and the 64 words of K, row by row as
R142 prints them (values the spec takes from general knowledge: log 18). -/
def Obligations.RoundEffects : Prop :=
  ((List.range 8).map (fun i => kWord i) =
      [0x428a2f98, 0x71374491, 0xb5c0fbcf, 0xe9b5dba5, 0x3956c25b, 0x59f111f1, 0x923f82a4, 0xab1c5ed5] ∧
    (List.range 8).map (fun i => kWord (8 + i)) =
      [0xd807aa98, 0x12835b01, 0x243185be, 0x550c7dc3, 0x72be5d74, 0x80deb1fe, 0x9bdc06a7, 0xc19bf174] ∧
    (List.range 8).map (fun i => kWord (16 + i)) =
      [0xe49b69c1, 0xefbe4786, 0x0fc19dc6, 0x240ca1cc, 0x2de92c6f, 0x4a7484aa, 0x5cb0a9dc, 0x76f988da] ∧
    (List.range 8).map (fun i => kWord (24 + i)) =
      [0x983e5152, 0xa831c66d, 0xb00327c8, 0xbf597fc7, 0xc6e00bf3, 0xd5a79147, 0x06ca6351, 0x14292967] ∧
    (List.range 8).map (fun i => kWord (32 + i)) =
      [0x27b70a85, 0x2e1b2138, 0x4d2c6dfc, 0x53380d13, 0x650a7354, 0x766a0abb, 0x81c2c92e, 0x92722c85] ∧
    (List.range 8).map (fun i => kWord (40 + i)) =
      [0xa2bfe8a1, 0xa81a664b, 0xc24b8b70, 0xc76c51a3, 0xd192e819, 0xd6990624, 0xf40e3585, 0x106aa070] ∧
    (List.range 8).map (fun i => kWord (48 + i)) =
      [0x19a4c116, 0x1e376c08, 0x2748774c, 0x34b0bcb5, 0x391c0cb3, 0x4ed8aa4a, 0x5b9cca4f, 0x682e6ff3] ∧
    (List.range 8).map (fun i => kWord (56 + i)) =
      [0x748f82ee, 0x78a5636f, 0x84c87814, 0x8cc70208, 0x90befffa, 0xa4506ceb, 0xbef9a3f7, 0xc67178f2]) ∧
  ∀ s : State, s.T.toNat < 64 →
    ∃ t t1 t2, exec .round s = .next t ∧ t = { s with v := t.v, T := t.T, PHASE := t.PHASE } ∧
      t1 = s.v.h + SUM1 s.v.e + CH s.v.e s.v.f s.v.g + kWord s.T.toNat + s.wWord s.T.toNat ∧
      t2 = SUM0 s.v.a + MAJ s.v.a s.v.b s.v.c ∧
      t.v.a = t1 + t2 ∧ t.v.b = s.v.a ∧ t.v.c = s.v.b ∧ t.v.d = s.v.c ∧
      t.v.e = s.v.d + t1 ∧ t.v.f = s.v.e ∧ t.v.g = s.v.f ∧ t.v.h = s.v.g ∧
      t.T.toNat = s.T.toNat + 1 ∧
      (s.T.toNat = 63 → t.PHASE = .chain) ∧ (s.T.toNat ≠ 63 → t.PHASE = s.PHASE)

/-- 42_compressor R148: CHAIN. -/
def Obligations.ChainEffects : Prop :=
  ∀ s : State, ∃ t, exec .chain s = .next t ∧ t = { s with H := t.H, I := s.I + 1, T := t.T, PHASE := t.PHASE } ∧
    t.H[0] = s.H[0] + s.v.a ∧ t.H[1] = s.H[1] + s.v.b ∧ t.H[2] = s.H[2] + s.v.c ∧ t.H[3] = s.H[3] + s.v.d ∧
    t.H[4] = s.H[4] + s.v.e ∧ t.H[5] = s.H[5] + s.v.f ∧ t.H[6] = s.H[6] + s.v.g ∧ t.H[7] = s.H[7] + s.v.h ∧
    (s.I.toNat + 1 < s.N.toNat → t.T = 0 ∧ t.PHASE = .sched) ∧
    (s.N.toNat ≤ s.I.toNat + 1 → t.T = s.T ∧ t.PHASE = .finish)

/-- 42_compressor R155: FINISH. -/
def Obligations.FinishEffects : Prop :=
  ∀ s : State, exec .finish s = .next { s with D := some s.H, DONE := true, PHASE := .idle }

/-! ### Errors and the way back -/

/-- 60_exceptions R215 with the causes and codes of R210: only LCHK, PSIZE and PCHK raise an error, each its own, and that
step writes ERROR, ERRCODE and PHASE and nothing else; in a run DONE stays 0 and D stays invalid. That each of the three
does raise where its condition holds is LchkEffects, PsizeEffects and PchkEffects. -/
def Obligations.ErrorEntryWritesThreeThings : Prop :=
  ∀ (i : Instr) (s t : State), s.ERROR = false → exec i s = .next t → t.ERROR = true →
    ((i = .lchk ∧ 2 ^ 61 ≤ s.LEN.toNat ∧ t = { s with ERROR := true, ERRCODE := 3, PHASE := .idle }) ∨
      (i = .psize ∧ s.NMAX < nblocks s.LEN.toNat ∧ t = { s with ERROR := true, ERRCODE := 1, PHASE := .idle }) ∨
      (i = .pchk ∧ (s.PLEN.toNat % 64 ≠ 0 ∨ s.N.toNat ≠ s.PLEN.toNat / 64) ∧
        t = { s with ERROR := true, ERRCODE := 2, PHASE := .idle })) ∧
    (ControlInv s → s.PHASE ≠ .idle → t.DONE = false ∧ t.D = none)

/-- 60_exceptions R217: the failed state lasts until an accepted START or a reset, and START clears it and begins a whole
new run from LCHK. -/
def Obligations.FailedStateLastsUntilStart : Prop :=
  ∀ s : State, ControlInv s → s.ERROR = true →
    (∃ u, exec .start s = .next u ∧ u.ERROR = false ∧ u.ERRCODE = 0 ∧ u.PHASE = .lchk) ∧
    (∀ t, s.turn ≠ .reset → step s = .next t →
      (t.ERROR = true ∧ t.ERRCODE = s.ERRCODE ∧ t.DONE = s.DONE ∧ t.PHASE = .idle ∧ t.D = s.D) ∨
      (∃ d, s.turn = .host d ∧ decode (.host d) = .ok .start ∧ JustStarted t))

/-! ### What the operations leave alone -/

/-- 10_state R35: only START, FINISH and the error exits write a flag. -/
def Obligations.FlagsChangeOnlyWhereTheTableSays : Prop :=
  ∀ (i : Instr) (s t : State), i.WellFormed → exec i s = .next t →
    (t.DONE ≠ s.DONE → i = .start ∨ i = .finish) ∧
    (t.ERROR ≠ s.ERROR ∨ t.ERRCODE ≠ s.ERRCODE → i = .start ∨ i = .lchk ∨ i = .psize ∨ i = .pchk)

/-- 10_state R24: no engine operation but FINISH and no host access but an accepted START changes D. -/
def Obligations.DigestIsStable : Prop :=
  ∀ (i : Instr) (s t : State), i.WellFormed → exec i s = .next t → t.D ≠ s.D →
    i = .finish ∨ (i = .start ∧ s.PHASE = .idle)

/-- 20_memory R61, R60 and 40_padder R117, 42_compressor R151: no engine operation writes MSG or LEN; PBUF is written by
PADB only and WBUF by PARSEW only; and no operation changes NMAX or the script. -/
def Obligations.StorageHasOneWriter : Prop :=
  ∀ (i : Instr) (s t : State), exec i s = .next t →
    (t.MSG ≠ s.MSG → ∃ j b, i = .wmsg j b) ∧ (t.LEN ≠ s.LEN → ∃ v, i = .wreg 2 v) ∧
    (t.PBUF ≠ s.PBUF → i = .padb) ∧ (t.WBUF ≠ s.WBUF → i = .parsew) ∧ (t.W ≠ s.W → i = .sched) ∧
    t.NMAX = s.NMAX ∧ t.script = s.script ∧ t.resetCount = s.resetCount

/-- 40_padder R117: PSIZE and PADB "write only L, KPAD, PLEN, N, J, PHASE and PBUF[0 .. PLEN−1]", apart from PSIZE's error
exit. -/
def Obligations.PadderWritesOnlyItsOwn : Prop :=
  ∀ s t : State,
    (exec .psize s = .next t → t.PHASE = .padb →
      t = { s with L := t.L, KPAD := t.KPAD, PLEN := t.PLEN, N := t.N, J := t.J, PHASE := t.PHASE }) ∧
    (exec .padb s = .next t → s.J.toNat < s.PLEN.toNat →
      t = { s with J := t.J, PHASE := t.PHASE, PBUF := t.PBUF } ∧
      ∀ k, s.PLEN.toNat ≤ k → t.pbufByte k = s.pbufByte k)

/-- 42_compressor R151: the six operations of the Compressor "write only H, W, the working variables, I, T, PHASE and, in
FINISH alone, D and DONE". -/
def Obligations.CompressorWritesOnlyItsOwn : Prop :=
  ∀ (i : Instr) (s t : State), i ∈ [Instr.hinit, .sched, .vars, .round, .chain, .finish] → exec i s = .next t →
    t = { s with H := t.H, W := t.W, v := t.v, I := t.I, T := t.T, PHASE := t.PHASE, D := t.D, DONE := t.DONE } ∧
    (i ≠ .finish → t.D = s.D ∧ t.DONE = s.DONE)

/-- 30_encoding R95, the column "next PHASE": the phase after each engine operation. -/
def Obligations.PhaseSuccessors : Prop :=
  ∀ (i : Instr) (s t : State), s.PHASE.operation = some i → exec i s = .next t →
    (s.PHASE, t.PHASE) ∈ [(Phase.lchk, Phase.psize), (.lchk, .idle), (.psize, .padb), (.psize, .idle), (.padb, .padb),
      (.padb, .pchk), (.pchk, .parsew), (.pchk, .idle), (.parsew, .parsew), (.parsew, .hinit), (.hinit, .sched),
      (.sched, .sched), (.sched, .vars), (.vars, .round), (.round, .round), (.round, .chain), (.chain, .sched),
      (.chain, .finish), (.finish, .idle)]

/-! ### Word operations and the reference functions -/

/-- 00_scope R9: SHR fills with zeros, ROTR rotates, addition wraps. -/
def Obligations.WordOperations : Prop :=
  ∀ (x y : Word) (n : Nat), 0 < n → n < 32 →
    (SHR x n).toNat = x.toNat / 2 ^ n ∧
    (ROTR x n).toNat = (x.toNat / 2 ^ n + x.toNat * 2 ^ (32 - n)) % 2 ^ 32 ∧
    (∀ i < 32, (ROTR x n).getLsbD i = x.getLsbD ((i + n) % 32)) ∧
    (x + y).toNat = (x.toNat + y.toNat) % 2 ^ 32

/-- 42_compressor R143: the six logical functions, CH and MAJ bit by bit, and the rule's corner values. -/
def Obligations.LogicalFunctions : Prop :=
  (∀ x, SIG0 x = ROTR x 7 ^^^ ROTR x 18 ^^^ SHR x 3 ∧ SIG1 x = ROTR x 17 ^^^ ROTR x 19 ^^^ SHR x 10 ∧
    SUM0 x = ROTR x 2 ^^^ ROTR x 13 ^^^ ROTR x 22 ∧ SUM1 x = ROTR x 6 ^^^ ROTR x 11 ^^^ ROTR x 25) ∧
  (∀ x y z : Word, CH x y z = (x &&& y) ^^^ (~~~x &&& z) ∧ MAJ x y z = (x &&& y) ^^^ (x &&& z) ^^^ (y &&& z) ∧
    ∀ i < 32, (CH x y z).getLsbD i = (if x.getLsbD i then y.getLsbD i else z.getLsbD i) ∧
      (MAJ x y z).getLsbD i = decide (2 ≤ (x.getLsbD i).toNat + (y.getLsbD i).toNat + (z.getLsbD i).toNat)) ∧
  (SIG0 0 = 0 ∧ SIG1 0 = 0 ∧ SUM0 0 = 0 ∧ SUM1 0 = 0 ∧ CH 0 0 0 = 0 ∧ MAJ 0 0 0 = 0) ∧
  (SUM0 0xFFFFFFFF = 0xFFFFFFFF ∧ SUM1 0xFFFFFFFF = 0xFFFFFFFF ∧ SIG0 0xFFFFFFFF = 0x1FFFFFFF ∧
    SIG1 0xFFFFFFFF = 0x003FFFFF) ∧
  (SIG0 1 = 0x02004000 ∧ SIG1 1 = 0x0000A000 ∧ SUM0 1 = 0x40080400 ∧ SUM1 1 = 0x04200080) ∧
  (∀ x y z : Word, CH 0xFFFFFFFF y z = y ∧ CH 0 y z = z ∧ MAJ x x z = x)

/-- 40_padder R111: the length functions, their closed forms and their bounds; and, from 20_memory R61, which lengths
fit a capacity. -/
def Obligations.LengthFunctions : Prop :=
  ∀ n : Nat, n < 2 ^ 61 →
    bitlen n = 8 * n ∧ kpad n < 512 ∧ (8 * n + 1 + kpad n) % 512 = 448 ∧
    (∀ k < 512, (8 * n + 1 + k) % 512 = 448 → k = kpad n) ∧
    zpad n = kpad n / 8 ∧ padlen n = n + 1 + zpad n + 8 ∧ nblocks n = padlen n / 64 ∧
    kpad n % 8 = 7 ∧ kpad n = 8 * zpad n + 7 ∧ (zpad n : Int) = (55 - (n : Int)) % 64 ∧
    padlen n = 64 * ((n + 8) / 64 + 1) ∧ nblocks n = (n + 8) / 64 + 1 ∧
    bitlen n ≤ 2 ^ 64 - 8 ∧ padlen n ≤ 2 ^ 61 + 64 ∧ nblocks n ≤ 2 ^ 55 + 1 ∧
    ∀ nmax, 1 ≤ nmax → (nblocks n ≤ nmax ↔ n ≤ 64 * nmax - 9)

/-- 40_padder R113: the five invariants of the padded message. -/
def Obligations.PaddedMessageInvariants : Prop :=
  ∀ m : List Byte, m.length < 2 ^ 61 →
    (pad m).length = padlen m.length ∧ padlen m.length % 64 = 0 ∧
    (pad m).drop (padlen m.length - 8) = be64 (BitVec.ofNat 64 (8 * m.length)) ∧
    nblocks m.length = padlen m.length / 64 ∧ 1 ≤ nblocks m.length ∧
    8 * (padlen m.length - 8) % 512 = 448 ∧
    (pad m).take m.length = m ∧ (pad m)[m.length]? = some 0x80

/-- 40_padder R112: the padded message byte by byte. -/
def Obligations.PaddedMessageBytes : Prop :=
  ∀ m : List Byte, m.length < 2 ^ 61 →
    pad m = m ++ [0x80] ++ List.replicate (zpad m.length) 0x00 ++ be64 (BitVec.ofNat 64 (bitlen m.length)) ∧
    ∀ j < padlen m.length, ∃ b, (pad m)[j]? = some b ∧
      (j < m.length → m[j]? = some b) ∧ (j = m.length → b = 0x80) ∧
      (m.length < j → j + 8 < padlen m.length → b = 0x00) ∧
      (padlen m.length ≤ j + 8 →
        b.toNat = bitlen m.length / 2 ^ (8 * (padlen m.length - 1 - j)) % 256)

/-- 41_block_parser R131 with be32 of 20_memory R65: the words of a byte sequence of whole blocks, and that parsing is a
bijection. -/
def Obligations.ParseIsBigEndianAndBijective : Prop :=
  ∀ n : Nat,
    (∀ p : List Byte, p.length = 64 * n → (parse p).length = 16 * n ∧
      ∀ w < 16 * n, ∃ b0 b1 b2 b3 x, p[4 * w]? = some b0 ∧ p[4 * w + 1]? = some b1 ∧ p[4 * w + 2]? = some b2 ∧
        p[4 * w + 3]? = some b3 ∧ (parse p)[w]? = some x ∧
        x.toNat = b0.toNat * 2 ^ 24 + b1.toNat * 2 ^ 16 + b2.toNat * 2 ^ 8 + b3.toNat) ∧
    (∀ ws : List Word, ws.length = 16 * n → ∃ p : List Byte, p.length = 64 * n ∧ parse p = ws ∧
      ∀ q : List Byte, q.length = 64 * n → parse q = ws → q = p)

/-- 20_memory R66: the length field is big-endian, and after parsing it is the last two words. -/
def Obligations.LengthFieldIsBigEndian : Prop :=
  ∀ m : List Byte, m.length < 2 ^ 61 →
    (∀ i < 8, ∃ b, (pad m)[padlen m.length - 8 + i]? = some b ∧
      b.toNat = 8 * m.length / 2 ^ (8 * (7 - i)) % 256) ∧
    (∃ hi lo, (parse (pad m))[16 * nblocks m.length - 2]? = some hi ∧
      (parse (pad m))[16 * nblocks m.length - 1]? = some lo ∧
      hi.toNat = 8 * m.length / 2 ^ 32 ∧ lo.toNat = 8 * m.length % 2 ^ 32)

/-- 20_memory R67: byte 4·i + j of the 32-byte form of the digest is bits (31 − 8j) : (24 − 8j) of word i. -/
def Obligations.DigestByteOrder : Prop :=
  ∀ d : Vector Word 8, (digestBytes d).length = 32 ∧
    ∀ (i : Fin 8) (j : Fin 4), (digestBytes d)[4 * i.val + j.val]? = some (d[i].extractLsb' (24 - 8 * j.val) 8)

/-- 42_compressor R156, R157 and 43_host_interface R180: the reference functions meet the recurrences of the rules: the
schedule, the round function, the rounds and the block function, the chaining values from H_INIT (values of R141: log 18)
and compress, sha256 as the composition of the three stages, and the message of a state, MSG[0 .. LEN−1] (20_memory
R61). The words of K that the rounds use are those of RoundEffects. -/
def Obligations.ReferenceRecurrences : Prop :=
  (∀ m : List Word, m.length = 16 → (schedule m).length = 64 ∧
    (∀ t < 16, (schedule m)[t]? = m[t]?) ∧
    ∀ t, 16 ≤ t → t < 64 → (schedule m)[t]? = some (SIG1 ((schedule m).getD (t - 2) 0) + (schedule m).getD (t - 7) 0 +
      SIG0 ((schedule m).getD (t - 15) 0) + (schedule m).getD (t - 16) 0)) ∧
  (∀ (h : Vector Word 8) (m : List Word), roundsUpTo h m 0 = h ∧
    (∀ t < 64, roundsUpTo h m (t + 1) = roundFn (roundsUpTo h m t) (kWord t) ((schedule m).getD t 0)) ∧
    ∀ j : Fin 8, (compressBlock h m)[j] = h[j] + (roundsUpTo h m 64)[j]) ∧
  (∀ (v : Vector Word 8) (k w : Word), ∃ t1 t2 : Word,
    t1 = v[7] + SUM1 v[4] + CH v[4] v[5] v[6] + k + w ∧ t2 = SUM0 v[0] + MAJ v[0] v[1] v[2] ∧
    roundFn v k w = #v[t1 + t2, v[0], v[1], v[2], v[3] + t1, v[4], v[5], v[6]]) ∧
  (∀ ws : List Word, chainState ws 0 = #v[0x6a09e667, 0xbb67ae85, 0x3c6ef372, 0xa54ff53a, 0x510e527f, 0x9b05688c,
      0x1f83d9ab, 0x5be0cd19] ∧
    (∀ i, chainState ws (i + 1) = compressBlock (chainState ws i) ((ws.drop (16 * i)).take 16)) ∧
    ∀ n, compress ws n = chainState ws n) ∧
  (∀ m : List Byte, sha256 m = compress (parse (pad m)) (nblocks m.length)) ∧
  (∀ s : State, s.message.length = s.LEN.toNat ∧ ∀ k < s.LEN.toNat, s.message[k]? = some (s.msgByte k))

/-! ### Stages and runs -/

/-- 40_padder R118: "The operations compute the function". An empty script gives
every turn to the engine (the model's choice, log 5). -/
def Obligations.PadderComputesPad : Prop :=
  ∀ s : State, s.script = [] → s.PHASE = .psize → s.LEN.toNat < 2 ^ 61 → nblocks s.LEN.toNat ≤ s.NMAX →
    ∃ t, RunsTo (1 + padlen s.LEN.toNat) s t ∧ t.PHASE = .pchk ∧ t.PLEN.toNat = padlen s.LEN.toNat ∧
      t.N.toNat = nblocks s.LEN.toNat ∧ t.L.toNat = 8 * s.LEN.toNat ∧
      ∀ k < t.PLEN.toNat, (pad s.message)[k]? = some (t.pbufByte k)

/-- 41_block_parser R135: "The operations compute the function". An empty script gives every turn to the
engine (the model's choice, log 5). -/
def Obligations.ParserComputesParse : Prop :=
  ∀ (s : State) (p : List Byte), s.script = [] → s.PHASE = .pchk → s.PLEN.toNat = 64 * s.N.toNat →
    1 ≤ s.N.toNat → s.N.toNat ≤ s.NMAX → p.length = 64 * s.N.toNat →
    (∀ k < s.PLEN.toNat, p[k]? = some (s.pbufByte k)) →
    ∃ t, RunsTo (1 + 16 * s.N.toNat) s t ∧ t.PHASE = .hinit ∧
      (∀ w < 16 * s.N.toNat, (parse p)[w]? = some (t.wbufWord w)) ∧
      t.PBUF = s.PBUF ∧ t.PLEN = s.PLEN ∧ t.N = s.N

/-- 42_compressor R158: "The operations compute the function", and after the CHAIN of block i, H = S_(i+1). An empty
script gives every turn to the engine (the model's choice, log 5). -/
def Obligations.CompressorComputesCompress : Prop :=
  ∀ (s : State) (ws : List Word), s.script = [] → s.PHASE = .hinit → 1 ≤ s.N.toNat → s.N.toNat ≤ s.NMAX →
    ws.length = 16 * s.N.toNat → (∀ w < 16 * s.N.toNat, ws[w]? = some (s.wbufWord w)) →
    (∃ t, RunsTo (1 + 130 * s.N.toNat + 1) s t ∧ t.PHASE = .idle ∧ t.DONE = true ∧
      t.D = some (compress ws s.N.toNat)) ∧
    (∀ i < s.N.toNat, ∃ u, RunsTo (1 + 130 * (i + 1)) s u ∧ u.H = chainState ws (i + 1))

/-- 43_host_interface R191: the order and the counts of the phases of a successful run. An empty script gives every turn
to the engine (the model's choice, log 5). -/
def Obligations.RunFollowsThePhaseOrder : Prop :=
  ∀ s : State, JustStarted s → s.script = [] → s.LEN.toNat < 2 ^ 61 → nblocks s.LEN.toNat ≤ s.NMAX →
    (runPhases (nblocks s.LEN.toNat)).length = runSteps (nblocks s.LEN.toNat) ∧
    ∀ k < runSteps (nblocks s.LEN.toNat), ∃ t, RunsTo k s t ∧
      (runPhases (nblocks s.LEN.toNat))[k]? = some t.PHASE

/-- 43_host_interface R192 with the step counts of 70_reset_and_hazards R249: the three ways a run ends, when the host
leaves the engine alone: an empty script gives every turn to the engine (the model's choice, log 5). -/
def Obligations.RunEndsWithSha256 : Prop :=
  ∀ s : State, JustStarted s → s.script = [] →
    (2 ^ 61 ≤ s.LEN.toNat →
      EndsAfter 1 s { s with ERROR := true, ERRCODE := 3, PHASE := .idle }) ∧
    (s.LEN.toNat < 2 ^ 61 → s.NMAX < nblocks s.LEN.toNat →
      EndsAfter 2 s { s with ERROR := true, ERRCODE := 1, PHASE := .idle }) ∧
    (s.LEN.toNat < 2 ^ 61 → nblocks s.LEN.toNat ≤ s.NMAX →
      ∃ t, EndsAfter (210 * nblocks s.LEN.toNat + 5) s t ∧ t.DONE = true ∧ t.ERROR = false ∧ t.ERRCODE = 0 ∧
        t.D = some (sha256 s.message) ∧ t.N.toNat = nblocks s.LEN.toNat ∧ t.PLEN.toNat = padlen s.LEN.toNat ∧
        t.LEN = s.LEN ∧ t.MSG = s.MSG)

/-- 43_host_interface R192 and 20_memory R72: the result of a run does not depend on how host accesses fall between the
engine's steps. The order of turns is the model's script (log 5). -/
def Obligations.ResultUnderEveryInterleaving : Prop :=
  ∀ (s t : State) (k : Nat), JustStarted s → NoReset s → EndsAfter k s t →
    (2 ^ 61 ≤ s.LEN.toNat → t.ERROR = true ∧ t.ERRCODE = 3 ∧ t.DONE = false ∧ t.D = none) ∧
    (s.LEN.toNat < 2 ^ 61 → s.NMAX < nblocks s.LEN.toNat →
      t.ERROR = true ∧ t.ERRCODE = 1 ∧ t.DONE = false ∧ t.D = none) ∧
    (s.LEN.toNat < 2 ^ 61 → nblocks s.LEN.toNat ≤ s.NMAX →
      t.DONE = true ∧ t.ERROR = false ∧ t.ERRCODE = 0 ∧ t.D = some (sha256 s.message) ∧
        t.N.toNat = nblocks s.LEN.toNat ∧ t.PLEN.toNat = padlen s.LEN.toNat) ∧
    t.LEN = s.LEN ∧ t.MSG = s.MSG

/-- 70_reset_and_hazards R249: every run ends, whatever turns the script holds. That the engine has every turn after
the end of the script is the model's choice, its form of the rule's fairness (log 5). -/
def Obligations.EveryRunEnds : Prop :=
  ∀ s : State, JustStarted s →
    ∃ k t, k ≤ s.script.length + runSteps (nblocks s.LEN.toNat) ∧ EndsAfter k s t

/-- 10_state R38: the result of a call is a function of LEN, MSG[0 .. LEN−1] and NMAX alone, whatever earlier calls left
behind and however the host's accesses fall, in the order of the model's script (log 5). -/
def Obligations.ResultDependsOnlyOnTheInputs : Prop :=
  ∀ (s t s' t' : State) (k l : Nat), JustStarted s → JustStarted t → NoReset s → NoReset t →
    s.LEN = t.LEN → s.NMAX = t.NMAX → s.message = t.message → EndsAfter k s s' → EndsAfter l t t' →
    s'.status = t'.status ∧ s'.D = t'.D ∧ (s'.DONE = true → s'.N = t'.N ∧ s'.PLEN = t'.PLEN)

/-- 43_host_interface R180: the whole call. From an idle machine the host writes the message byte by byte, writes its
length and starts; the engine then delivers sha256 of it. The order of turns is the model's script (log 5). -/
def Obligations.HashCallDeliversSha256 : Prop :=
  ∀ (s : State) (m : List Byte), Config.LegalCapacity s.NMAX → s.PHASE = .idle →
    s.script = hostTurns (hashCall m) → m.length < 2 ^ 61 → m.length ≤ 64 * s.NMAX - 9 →
    ∃ t, RunsTo (m.length + 2 + runSteps (nblocks m.length)) s t ∧ t.PHASE = .idle ∧ t.DONE = true ∧
      t.ERROR = false ∧ t.ERRCODE = 0 ∧ t.D = some (sha256 m) ∧ t.N.toNat = nblocks m.length ∧
      t.PLEN.toNat = padlen m.length ∧ t.LEN.toNat = m.length ∧ t.message = m

/-- 30_encoding R100, the whole of `hash`, and 43_host_interface R180: putmsg, setlen, start, wait, rreg STATUS,
getdigest. `before` paces the host's accesses up to START, `during` its polls, `after` the rest (the engine's turns before
each access: log 23). Whatever the pace, once the engine has had the turns of its run the program is over, every poll but
the last has read 1 and the last 2, STATUS reads 2, and the eight reads return sha256 of the message, D0 first. The list
of answers, latest first, is the model's (log 7). -/
def Obligations.HashProgramReturnsSha256 : Prop :=
  ∀ (s : State) (m : List Byte) (before during after : List Nat), Config.LegalCapacity s.NMAX → s.PHASE = .idle →
    m.length < 2 ^ 61 → m.length ≤ 64 * s.NMAX - 9 → before.length = m.length + 2 →
    runSteps (nblocks m.length) ≤ during.sum → 9 ≤ after.length →
    ∃ t k, runProgram (before ++ during ++ after) (hashProgram m) s = .next (t, []) ∧
      t.PHASE = .idle ∧ t.DONE = true ∧ t.D = some (sha256 m) ∧ t.script = s.script ∧
      t.returned = ((List.finRange 8).reverse.map fun i => ReadValue.word (sha256 m)[i]) ++
        (List.replicate 2 (.word 0x00000002) ++ (List.replicate k (.word 0x00000001) ++ s.returned))
end

