-- ==== Sys2Proof/Laws/Memory.lean ====
section
/-! SUPPORT. Laws of storage as a sorted list: read after write, the canonical form is kept and determines the list. -/

namespace Sys2Proof.Laws

open Sys2Proof.Machine

variable {α : Type}

@[simp] theorem find_nil (i : Nat) : Memory.find ([] : List (Nat × α)) i = none := rfl

/-- 20_memory R64: a read after a write to the same index gives the value written. -/
@[simp] theorem find_write_same (m : List (Nat × α)) (i : Nat) (x : α) :
    Memory.find (Memory.write m i x) i = some x := by
  induction m with
  | nil => simp [Memory.write, Memory.find]
  | cons e m ih =>
    simp only [Memory.write]
    split
    · simp [Memory.find]
    · split
      · simp [Memory.find]
      · rename_i h
        simp [Memory.find, Ne.symm h, ih]

/-- 20_memory R64: a write leaves every other index alone. -/
theorem find_write_other (m : List (Nat × α)) {i j : Nat} (x : α) (h : j ≠ i) :
    Memory.find (Memory.write m i x) j = Memory.find m j := by
  induction m with
  | nil => simp [Memory.write, Memory.find, Ne.symm h]
  | cons e m ih =>
    simp only [Memory.write]
    split
    · simp [Memory.find, Ne.symm h]
    · split
      · rename_i he
        subst he
        simp [Memory.find, Ne.symm h]
      · simp only [Memory.find, ih]

/-- Read after write, both cases at once. -/
theorem find_write (m : List (Nat × α)) (i j : Nat) (x : α) :
    Memory.find (Memory.write m i x) j = if j = i then some x else Memory.find m j := by
  split
  · subst j; simp
  · exact find_write_other m x ‹_›

theorem wf_cons {e : Nat × α} {m : List (Nat × α)} :
    Memory.wf (e :: m) = true ↔ (∀ f ∈ m.head?, e.1 < f.1) ∧ Memory.wf m = true := by
  cases m <;> simp [Memory.wf]

theorem head_write (m : List (Nat × α)) (i : Nat) (x : α) (b : Nat) (hb : b < i)
    (h : ∀ f ∈ m.head?, b < f.1) : ∀ f ∈ (Memory.write m i x).head?, b < f.1 := by
  cases m with
  | nil => simp [Memory.write, hb]
  | cons e m =>
    simp only [Memory.write]
    split
    · simp [hb]
    · split
      · simp [hb]
      · simpa using h

/-- A write keeps the canonical form. -/
theorem wf_write (m : List (Nat × α)) (i : Nat) (x : α) (h : Memory.wf m = true) :
    Memory.wf (Memory.write m i x) = true := by
  induction m with
  | nil => rfl
  | cons e m ih =>
    obtain ⟨h1, h2⟩ := wf_cons.1 h
    simp only [Memory.write]
    split
    · exact wf_cons.2 ⟨by simpa, h⟩
    · split
      · rename_i he
        subst he
        exact wf_cons.2 ⟨h1, h2⟩
      · exact wf_cons.2 ⟨head_write m i x e.1 (by omega) h1, ih h2⟩

/-- A write below a bound keeps every index below it. -/
theorem below_write (m : List (Nat × α)) (i : Nat) (x : α) (b : Nat) (hi : i < b) (h : Memory.below b m = true) :
    Memory.below b (Memory.write m i x) = true := by
  induction m with
  | nil => simpa [Memory.write, Memory.below] using hi
  | cons e m ih =>
    simp only [Memory.below, List.all_cons, Bool.and_eq_true, decide_eq_true_eq] at h ih ⊢
    simp only [Memory.write]
    split
    · simp [hi, h]
    · split
      · simpa [hi] using h.2
      · simp only [List.all_cons, Bool.and_eq_true, decide_eq_true_eq]
        exact ⟨h.1, ih h.2⟩

theorem find_none_of_lt (m : List (Nat × α)) (i : Nat) (h : Memory.wf m = true) (hi : ∀ f ∈ m.head?, i < f.1) :
    Memory.find m i = none := by
  induction m with
  | nil => rfl
  | cons e m ih =>
    obtain ⟨h1, h2⟩ := wf_cons.1 h
    have he : i < e.1 := by simpa using hi
    simp only [Memory.find]
    rw [if_neg (by omega)]
    exact ih h2 fun f hf => lt_trans he (h1 f hf)

/-- Equal memories are equal data: canonical lists that read alike are the same list. -/
theorem eq_of_find_eq (m m' : List (Nat × α)) (h : Memory.wf m = true) (h' : Memory.wf m' = true)
    (hf : ∀ i, Memory.find m i = Memory.find m' i) : m = m' := by
  induction m generalizing m' with
  | nil =>
    cases m' with
    | nil => rfl
    | cons e' _ => simpa [Memory.find] using hf e'.1
  | cons e m ih =>
    obtain ⟨h1, h2⟩ := wf_cons.1 h
    cases m' with
    | nil => simpa [Memory.find] using hf e.1
    | cons e' m' =>
      obtain ⟨h1', h2'⟩ := wf_cons.1 h'
      have key : e.1 = e'.1 := by
        by_contra hne
        rcases Nat.lt_or_gt_of_ne hne with hlt | hlt
        · have := hf e.1
          rw [find_none_of_lt (e' :: m') e.1 h' (by simpa using hlt)] at this
          simp [Memory.find] at this
        · have := hf e'.1
          rw [find_none_of_lt (e :: m) e'.1 h (by simpa using hlt)] at this
          simp [Memory.find] at this
      have hval : e = e' := by
        have := hf e.1
        simp only [Memory.find, key, if_true, Option.some.injEq] at this
        exact Prod.ext key this
      subst hval
      congr 1
      refine ih m' h2 h2' fun i => ?_
      by_cases hi : e.1 = i
      · subst hi
        rw [find_none_of_lt m e.1 h2 h1, find_none_of_lt m' e.1 h2' h1']
      · simpa [Memory.find, hi] using hf i

end Sys2Proof.Laws
end

