-- ==== Sys2Proof/Laws/State.lean ====
section
/-! SUPPORT. One lemma per field per named update of State, true by rfl and tagged simp, so that no proof unfolds a record
update. The updates inside the meanings are record updates already. -/

namespace Sys2Proof.Laws

open Sys2Proof.Machine

variable (s : State)

/-! ### answer -/

@[simp] theorem answer_v (r : ReadValue) : (s.answer r).v = s.v := rfl
@[simp] theorem answer_H (r : ReadValue) : (s.answer r).H = s.H := rfl
@[simp] theorem answer_W (r : ReadValue) : (s.answer r).W = s.W := rfl
@[simp] theorem answer_D (r : ReadValue) : (s.answer r).D = s.D := rfl
@[simp] theorem answer_L (r : ReadValue) : (s.answer r).L = s.L := rfl
@[simp] theorem answer_KPAD (r : ReadValue) : (s.answer r).KPAD = s.KPAD := rfl
@[simp] theorem answer_PLEN (r : ReadValue) : (s.answer r).PLEN = s.PLEN := rfl
@[simp] theorem answer_N (r : ReadValue) : (s.answer r).N = s.N := rfl
@[simp] theorem answer_I (r : ReadValue) : (s.answer r).I = s.I := rfl
@[simp] theorem answer_T (r : ReadValue) : (s.answer r).T = s.T := rfl
@[simp] theorem answer_J (r : ReadValue) : (s.answer r).J = s.J := rfl
@[simp] theorem answer_PHASE (r : ReadValue) : (s.answer r).PHASE = s.PHASE := rfl
@[simp] theorem answer_DONE (r : ReadValue) : (s.answer r).DONE = s.DONE := rfl
@[simp] theorem answer_ERROR (r : ReadValue) : (s.answer r).ERROR = s.ERROR := rfl
@[simp] theorem answer_ERRCODE (r : ReadValue) : (s.answer r).ERRCODE = s.ERRCODE := rfl
@[simp] theorem answer_LEN (r : ReadValue) : (s.answer r).LEN = s.LEN := rfl
@[simp] theorem answer_MSG (r : ReadValue) : (s.answer r).MSG = s.MSG := rfl
@[simp] theorem answer_PBUF (r : ReadValue) : (s.answer r).PBUF = s.PBUF := rfl
@[simp] theorem answer_WBUF (r : ReadValue) : (s.answer r).WBUF = s.WBUF := rfl
@[simp] theorem answer_NMAX (r : ReadValue) : (s.answer r).NMAX = s.NMAX := rfl
@[simp] theorem answer_script (r : ReadValue) : (s.answer r).script = s.script := rfl
@[simp] theorem answer_returned (r : ReadValue) : (s.answer r).returned = r :: s.returned := rfl
@[simp] theorem answer_freeCount (r : ReadValue) : (s.answer r).freeCount = s.freeCount := rfl
@[simp] theorem answer_resetCount (r : ReadValue) : (s.answer r).resetCount = s.resetCount := rfl

/-! ### answerFree -/

@[simp] theorem answerFree_v (f : Nat → ReadValue) : (s.answerFree f).v = s.v := rfl
@[simp] theorem answerFree_H (f : Nat → ReadValue) : (s.answerFree f).H = s.H := rfl
@[simp] theorem answerFree_W (f : Nat → ReadValue) : (s.answerFree f).W = s.W := rfl
@[simp] theorem answerFree_D (f : Nat → ReadValue) : (s.answerFree f).D = s.D := rfl
@[simp] theorem answerFree_L (f : Nat → ReadValue) : (s.answerFree f).L = s.L := rfl
@[simp] theorem answerFree_KPAD (f : Nat → ReadValue) : (s.answerFree f).KPAD = s.KPAD := rfl
@[simp] theorem answerFree_PLEN (f : Nat → ReadValue) : (s.answerFree f).PLEN = s.PLEN := rfl
@[simp] theorem answerFree_N (f : Nat → ReadValue) : (s.answerFree f).N = s.N := rfl
@[simp] theorem answerFree_I (f : Nat → ReadValue) : (s.answerFree f).I = s.I := rfl
@[simp] theorem answerFree_T (f : Nat → ReadValue) : (s.answerFree f).T = s.T := rfl
@[simp] theorem answerFree_J (f : Nat → ReadValue) : (s.answerFree f).J = s.J := rfl
@[simp] theorem answerFree_PHASE (f : Nat → ReadValue) : (s.answerFree f).PHASE = s.PHASE := rfl
@[simp] theorem answerFree_DONE (f : Nat → ReadValue) : (s.answerFree f).DONE = s.DONE := rfl
@[simp] theorem answerFree_ERROR (f : Nat → ReadValue) : (s.answerFree f).ERROR = s.ERROR := rfl
@[simp] theorem answerFree_ERRCODE (f : Nat → ReadValue) : (s.answerFree f).ERRCODE = s.ERRCODE := rfl
@[simp] theorem answerFree_LEN (f : Nat → ReadValue) : (s.answerFree f).LEN = s.LEN := rfl
@[simp] theorem answerFree_MSG (f : Nat → ReadValue) : (s.answerFree f).MSG = s.MSG := rfl
@[simp] theorem answerFree_PBUF (f : Nat → ReadValue) : (s.answerFree f).PBUF = s.PBUF := rfl
@[simp] theorem answerFree_WBUF (f : Nat → ReadValue) : (s.answerFree f).WBUF = s.WBUF := rfl
@[simp] theorem answerFree_NMAX (f : Nat → ReadValue) : (s.answerFree f).NMAX = s.NMAX := rfl
@[simp] theorem answerFree_script (f : Nat → ReadValue) : (s.answerFree f).script = s.script := rfl
@[simp] theorem answerFree_returned (f : Nat → ReadValue) : (s.answerFree f).returned = f s.freeCount :: s.returned := rfl
@[simp] theorem answerFree_freeCount (f : Nat → ReadValue) : (s.answerFree f).freeCount = s.freeCount + 1 := rfl
@[simp] theorem answerFree_resetCount (f : Nat → ReadValue) : (s.answerFree f).resetCount = s.resetCount := rfl

/-! ### raise -/

@[simp] theorem raise_v (e : EngineError) : (s.raise e).v = s.v := rfl
@[simp] theorem raise_H (e : EngineError) : (s.raise e).H = s.H := rfl
@[simp] theorem raise_W (e : EngineError) : (s.raise e).W = s.W := rfl
@[simp] theorem raise_D (e : EngineError) : (s.raise e).D = s.D := rfl
@[simp] theorem raise_L (e : EngineError) : (s.raise e).L = s.L := rfl
@[simp] theorem raise_KPAD (e : EngineError) : (s.raise e).KPAD = s.KPAD := rfl
@[simp] theorem raise_PLEN (e : EngineError) : (s.raise e).PLEN = s.PLEN := rfl
@[simp] theorem raise_N (e : EngineError) : (s.raise e).N = s.N := rfl
@[simp] theorem raise_I (e : EngineError) : (s.raise e).I = s.I := rfl
@[simp] theorem raise_T (e : EngineError) : (s.raise e).T = s.T := rfl
@[simp] theorem raise_J (e : EngineError) : (s.raise e).J = s.J := rfl
@[simp] theorem raise_PHASE (e : EngineError) : (s.raise e).PHASE = .idle := rfl
@[simp] theorem raise_DONE (e : EngineError) : (s.raise e).DONE = s.DONE := rfl
@[simp] theorem raise_ERROR (e : EngineError) : (s.raise e).ERROR = true := rfl
@[simp] theorem raise_ERRCODE (e : EngineError) : (s.raise e).ERRCODE = e.code := rfl
@[simp] theorem raise_LEN (e : EngineError) : (s.raise e).LEN = s.LEN := rfl
@[simp] theorem raise_MSG (e : EngineError) : (s.raise e).MSG = s.MSG := rfl
@[simp] theorem raise_PBUF (e : EngineError) : (s.raise e).PBUF = s.PBUF := rfl
@[simp] theorem raise_WBUF (e : EngineError) : (s.raise e).WBUF = s.WBUF := rfl
@[simp] theorem raise_NMAX (e : EngineError) : (s.raise e).NMAX = s.NMAX := rfl
@[simp] theorem raise_script (e : EngineError) : (s.raise e).script = s.script := rfl
@[simp] theorem raise_returned (e : EngineError) : (s.raise e).returned = s.returned := rfl
@[simp] theorem raise_freeCount (e : EngineError) : (s.raise e).freeCount = s.freeCount := rfl
@[simp] theorem raise_resetCount (e : EngineError) : (s.raise e).resetCount = s.resetCount := rfl

/-! ### afterTurn -/

@[simp] theorem afterTurn_v : (s.afterTurn).v = s.v := rfl
@[simp] theorem afterTurn_H : (s.afterTurn).H = s.H := rfl
@[simp] theorem afterTurn_W : (s.afterTurn).W = s.W := rfl
@[simp] theorem afterTurn_D : (s.afterTurn).D = s.D := rfl
@[simp] theorem afterTurn_L : (s.afterTurn).L = s.L := rfl
@[simp] theorem afterTurn_KPAD : (s.afterTurn).KPAD = s.KPAD := rfl
@[simp] theorem afterTurn_PLEN : (s.afterTurn).PLEN = s.PLEN := rfl
@[simp] theorem afterTurn_N : (s.afterTurn).N = s.N := rfl
@[simp] theorem afterTurn_I : (s.afterTurn).I = s.I := rfl
@[simp] theorem afterTurn_T : (s.afterTurn).T = s.T := rfl
@[simp] theorem afterTurn_J : (s.afterTurn).J = s.J := rfl
@[simp] theorem afterTurn_PHASE : (s.afterTurn).PHASE = s.PHASE := rfl
@[simp] theorem afterTurn_DONE : (s.afterTurn).DONE = s.DONE := rfl
@[simp] theorem afterTurn_ERROR : (s.afterTurn).ERROR = s.ERROR := rfl
@[simp] theorem afterTurn_ERRCODE : (s.afterTurn).ERRCODE = s.ERRCODE := rfl
@[simp] theorem afterTurn_LEN : (s.afterTurn).LEN = s.LEN := rfl
@[simp] theorem afterTurn_MSG : (s.afterTurn).MSG = s.MSG := rfl
@[simp] theorem afterTurn_PBUF : (s.afterTurn).PBUF = s.PBUF := rfl
@[simp] theorem afterTurn_WBUF : (s.afterTurn).WBUF = s.WBUF := rfl
@[simp] theorem afterTurn_NMAX : (s.afterTurn).NMAX = s.NMAX := rfl
@[simp] theorem afterTurn_script : (s.afterTurn).script = s.script.tail := rfl
@[simp] theorem afterTurn_returned : (s.afterTurn).returned = s.returned := rfl
@[simp] theorem afterTurn_freeCount : (s.afterTurn).freeCount = s.freeCount := rfl
@[simp] theorem afterTurn_resetCount : (s.afterTurn).resetCount = s.resetCount := rfl

/-! ### applyReset -/

@[simp] theorem applyReset_v : (s.applyReset).v = State.reset.v := rfl
@[simp] theorem applyReset_H : (s.applyReset).H = State.reset.H := rfl
@[simp] theorem applyReset_W : (s.applyReset).W = State.reset.W := rfl
@[simp] theorem applyReset_D : (s.applyReset).D = State.reset.D := rfl
@[simp] theorem applyReset_L : (s.applyReset).L = State.reset.L := rfl
@[simp] theorem applyReset_KPAD : (s.applyReset).KPAD = State.reset.KPAD := rfl
@[simp] theorem applyReset_PLEN : (s.applyReset).PLEN = State.reset.PLEN := rfl
@[simp] theorem applyReset_N : (s.applyReset).N = State.reset.N := rfl
@[simp] theorem applyReset_I : (s.applyReset).I = State.reset.I := rfl
@[simp] theorem applyReset_T : (s.applyReset).T = State.reset.T := rfl
@[simp] theorem applyReset_J : (s.applyReset).J = State.reset.J := rfl
@[simp] theorem applyReset_PHASE : (s.applyReset).PHASE = State.reset.PHASE := rfl
@[simp] theorem applyReset_DONE : (s.applyReset).DONE = State.reset.DONE := rfl
@[simp] theorem applyReset_ERROR : (s.applyReset).ERROR = State.reset.ERROR := rfl
@[simp] theorem applyReset_ERRCODE : (s.applyReset).ERRCODE = State.reset.ERRCODE := rfl
@[simp] theorem applyReset_LEN : (s.applyReset).LEN = State.reset.LEN := rfl
@[simp] theorem applyReset_MSG : (s.applyReset).MSG = State.reset.MSG := rfl
@[simp] theorem applyReset_PBUF : (s.applyReset).PBUF = State.reset.PBUF := rfl
@[simp] theorem applyReset_WBUF : (s.applyReset).WBUF = State.reset.WBUF := rfl
@[simp] theorem applyReset_NMAX : (s.applyReset).NMAX = s.NMAX := rfl
@[simp] theorem applyReset_script : (s.applyReset).script = s.script := rfl
@[simp] theorem applyReset_returned : (s.applyReset).returned = s.returned := rfl
@[simp] theorem applyReset_freeCount : (s.applyReset).freeCount = s.freeCount := rfl
@[simp] theorem applyReset_resetCount : (s.applyReset).resetCount = s.resetCount + 1 := rfl

/-! ### State.reset -/

@[simp] theorem reset_v : State.reset.v = WorkVars.zero := rfl
@[simp] theorem reset_H : State.reset.H = Vector.replicate 8 0 := rfl
@[simp] theorem reset_W : State.reset.W = Vector.replicate 64 0 := rfl
@[simp] theorem reset_D : State.reset.D = none := rfl
@[simp] theorem reset_L : State.reset.L = 0 := rfl
@[simp] theorem reset_KPAD : State.reset.KPAD = 0 := rfl
@[simp] theorem reset_PLEN : State.reset.PLEN = 0 := rfl
@[simp] theorem reset_N : State.reset.N = 0 := rfl
@[simp] theorem reset_I : State.reset.I = 0 := rfl
@[simp] theorem reset_T : State.reset.T = 0 := rfl
@[simp] theorem reset_J : State.reset.J = 0 := rfl
@[simp] theorem reset_PHASE : State.reset.PHASE = .idle := rfl
@[simp] theorem reset_DONE : State.reset.DONE = false := rfl
@[simp] theorem reset_ERROR : State.reset.ERROR = false := rfl
@[simp] theorem reset_ERRCODE : State.reset.ERRCODE = 0 := rfl
@[simp] theorem reset_LEN : State.reset.LEN = 0 := rfl
@[simp] theorem reset_MSG : State.reset.MSG = [] := rfl
@[simp] theorem reset_PBUF : State.reset.PBUF = [] := rfl
@[simp] theorem reset_WBUF : State.reset.WBUF = [] := rfl
@[simp] theorem reset_NMAX : State.reset.NMAX = Config.resetCapacity := rfl
@[simp] theorem reset_script : State.reset.script = [] := rfl
@[simp] theorem reset_returned : State.reset.returned = [] := rfl
@[simp] theorem reset_freeCount : State.reset.freeCount = 0 := rfl
@[simp] theorem reset_resetCount : State.reset.resetCount = 0 := rfl

/-! ### Views -/

@[simp] theorem busy_eq_false : s.busy = false ↔ s.PHASE = .idle := by simp [State.busy]

@[simp] theorem busy_eq_true : s.busy = true ↔ s.PHASE ≠ .idle := by simp [State.busy]

/-- START when idle (43_host_interface R185). -/
theorem startCall_of_idle (h : s.PHASE = .idle) :
    s.startCall = { s with DONE := false, ERROR := false, ERRCODE := 0, D := none, PHASE := .lchk } := by
  simp [State.startCall, State.busy, h]

/-- START while BUSY (43_host_interface R185). -/
theorem startCall_of_busy (h : s.PHASE ≠ .idle) : s.startCall = s := by simp [State.startCall, State.busy, h]

end Sys2Proof.Laws
end

