-- ==== Sys2Proof/Laws/Ops.lean ====
section
/-! SUPPORT. One lemma for each shared operation of Machine/Ops.lean, Flags.lean and Operands.lean, saying once everything
it can do. -/

namespace Sys2Proof.Laws

open Sys2Proof.Machine

/-- An access in range is what follows it. -/
theorem withIndex_of_lt {sp : Space} {i : Nat} {s : State} (k : Host.Outcome State Fault Refusal)
    (h : i < sp.size s.NMAX) : withIndex sp i s k = k := if_pos h

/-- An access goes on exactly when it is in range and what follows goes on. -/
@[simp] theorem withIndex_eq_next {sp : Space} {i : Nat} {s t : State} {k : Host.Outcome State Fault Refusal} :
    withIndex sp i s k = .next t ↔ i < sp.size s.NMAX ∧ k = .next t := by
  unfold withIndex
  split <;> simp_all

@[simp] theorem msg_size (n : Nat) : Space.msg.size n = 64 * n - 9 := rfl
@[simp] theorem pbuf_size (n : Nat) : Space.pbuf.size n = 64 * n := rfl
@[simp] theorem wbuf_size (n : Nat) : Space.wbuf.size n = 16 * n := rfl
@[simp] theorem w_size (n : Nat) : Space.w.size n = 64 := rfl
@[simp] theorem k_size (n : Nat) : Space.k.size n = 64 := rfl
@[simp] theorem hInit_size (n : Nat) : Space.hInit.size n = 8 := rfl
@[simp] theorem msgCap_eq (s : State) : s.msgCap = 64 * s.NMAX - 9 := rfl

/-- A byte of MSG depends on MSG and the reset count alone. -/
theorem msgByte_congr {s t : State} (hm : t.MSG = s.MSG) (hr : t.resetCount = s.resetCount) (k : Nat) :
    t.msgByte k = s.msgByte k := by simp [State.msgByte, hm, hr]

/-- A byte of PBUF depends on PBUF and the reset count alone. -/
theorem pbufByte_congr {s t : State} (hm : t.PBUF = s.PBUF) (hr : t.resetCount = s.resetCount) (k : Nat) :
    t.pbufByte k = s.pbufByte k := by simp [State.pbufByte, hm, hr]

/-- A word of WBUF depends on WBUF and the reset count alone. -/
theorem wbufWord_congr {s t : State} (hm : t.WBUF = s.WBUF) (hr : t.resetCount = s.resetCount) (k : Nat) :
    t.wbufWord k = s.wbufWord k := by simp [State.wbufWord, hm, hr]

/-- The bytes of MSG after a store. -/
theorem msgByte_of_write {s t : State} {i : Nat} {b : Byte} (hm : t.MSG = Memory.write s.MSG i b)
    (hr : t.resetCount = s.resetCount) (k : Nat) : t.msgByte k = if k = i then b else s.msgByte k := by
  simp only [State.msgByte, hm, hr, find_write]
  split <;> simp

/-- The bytes of PBUF after a store. -/
theorem pbufByte_of_write {s t : State} {i : Nat} {b : Byte} (hm : t.PBUF = Memory.write s.PBUF i b)
    (hr : t.resetCount = s.resetCount) (k : Nat) : t.pbufByte k = if k = i then b else s.pbufByte k := by
  simp only [State.pbufByte, hm, hr, find_write]
  split <;> simp

/-- The words of WBUF after a store. -/
theorem wbufWord_of_write {s t : State} {i : Nat} {w : Word} (hm : t.WBUF = Memory.write s.WBUF i w)
    (hr : t.resetCount = s.resetCount) (k : Nat) : t.wbufWord k = if k = i then w else s.wbufWord k := by
  simp only [State.wbufWord, hm, hr, find_write]
  split <;> simp

/-- The elements of W after a store. -/
theorem wWord_of_set {s t : State} {i : Nat} {w : Word} (hm : t.W = s.W.setIfInBounds i w) (k : Nat) (hk : k < 64) :
    t.wWord k = if k = i then w else s.wWord k := by
  have hw : ∀ x : State, x.wWord k = x.W[k] := fun x => by simp [State.wWord, Vector.getD, Array.getD, hk]
  rw [hw, hw]
  simp only [hm, Vector.getElem_setIfInBounds, eq_comm (a := i)]

@[simp] theorem code_allocationFailure : EngineError.allocationFailure.code = 1 := rfl
@[simp] theorem code_malformedInput : EngineError.malformedInput.code = 2 := rfl
@[simp] theorem code_lengthOverflow : EngineError.lengthOverflow.code = 3 := rfl

@[simp] theorem turn_of_nil {s : State} (h : s.script = []) : s.turn = .engine := by simp [State.turn, h]

@[simp] theorem turn_of_cons {s : State} {x : Turn} {r : List Turn} (h : s.script = x :: r) : s.turn = x := by
  simp [State.turn, h]

/-- The four bytes of a big-endian word (20_memory R65). -/
theorem be32_toNat (b0 b1 b2 b3 : Byte) :
    (be32 b0 b1 b2 b3).toNat = b0.toNat * 2 ^ 24 + b1.toNat * 2 ^ 16 + b2.toNat * 2 ^ 8 + b3.toNat := by
  have h1 := b1.isLt
  have h2 := b2.isLt
  have h3 := b3.isLt
  simp only [be32, BitVec.toNat_append]
  rw [← Nat.shiftLeft_add_eq_or_of_lt (by omega), ← Nat.shiftLeft_add_eq_or_of_lt (by omega),
    ← Nat.shiftLeft_add_eq_or_of_lt (by omega)]
  simp only [Nat.shiftLeft_eq]
  omega

end Sys2Proof.Laws
end

