-- ==== Sys2Proof/Laws/Exec.lean ====
section
/-! SUPPORT. One inversion lemma for each operation whose meaning has cases ("if it answers next t, then ..."), and one for
the step. Later proofs cite these and unfold no meaning. -/

namespace Sys2Proof.Laws

open Sys2Proof.Machine

variable {s t : State}

/-- RREG answers, with a value of the rules or with a free one. -/
theorem execRreg_cases (n : DWord) :
    (∃ r, s.registerValue n = some r ∧ execRreg n s = .next (s.answer r)) ∨
    (s.registerValue n = none ∧ execRreg n s = .next (s.answerFree (unspecifiedAnswer n))) := by
  unfold execRreg
  cases h : s.registerValue n with
  | none => exact .inr ⟨rfl, rfl⟩
  | some r => exact .inl ⟨r, rfl, rfl⟩

/-- WREG is a START, a store to LEN, or nothing. -/
theorem execWreg_cases (n v : DWord) :
    (n = 0 ∧ v.extractLsb' 0 32 = 1 ∧ execWreg n v s = .next s.startCall) ∨
    (n = 2 ∧ s.PHASE = .idle ∧ execWreg n v s = .next { s with LEN := v }) ∨
    (execWreg n v s = .next s) := by
  unfold execWreg
  split
  · split
    · exact .inl ⟨‹_›, ‹_›, rfl⟩
    · exact .inr (.inr rfl)
  · split
    · split
      · exact .inr (.inr rfl)
      · exact .inr (.inl ⟨‹_›, by simpa using ‹¬ s.busy = true›, rfl⟩)
    · exact .inr (.inr rfl)

/-- RMSG answers with the byte in range and with a free one beyond. -/
theorem execRmsg_cases (j : DWord) :
    (j.toNat < 64 * s.NMAX - 9 ∧ execRmsg j s = .next (s.answer (.byte (s.msgByte j.toNat)))) ∨
    (64 * s.NMAX - 9 ≤ j.toNat ∧ execRmsg j s = .next (s.answerFree fun k => .byte (Config.freeByte k))) := by
  unfold execRmsg
  split
  · exact .inl ⟨by simpa using ‹_›, rfl⟩
  · rename_i h
    exact .inr ⟨by rw [msgCap_eq] at h; omega, rfl⟩

/-- WMSG stores one byte while idle and in range, and does nothing otherwise. -/
theorem execWmsg_cases (j : DWord) (b : Byte) :
    (s.PHASE = .idle ∧ j.toNat < 64 * s.NMAX - 9 ∧
      execWmsg j b s = .next { s with MSG := Memory.write s.MSG j.toNat b }) ∨
    ((s.PHASE ≠ .idle ∨ 64 * s.NMAX - 9 ≤ j.toNat) ∧ execWmsg j b s = .next s) := by
  unfold execWmsg
  split
  · rename_i h
    exact .inl ⟨by simpa using h.1, by simpa using h.2, rfl⟩
  · rename_i h
    refine .inr ⟨?_, rfl⟩
    simp only [busy_eq_false, msgCap_eq, not_and_or, not_lt] at h
    exact h

/-- START clears the flags and selects LCHK, or does nothing. -/
theorem startCall_cases :
    (s.PHASE = .idle ∧
      s.startCall = { s with DONE := false, ERROR := false, ERRCODE := 0, D := none, PHASE := .lchk }) ∨
    (s.PHASE ≠ .idle ∧ s.startCall = s) := by
  by_cases h : s.PHASE = .idle
  · exact .inl ⟨h, startCall_of_idle s h⟩
  · exact .inr ⟨h, startCall_of_busy s h⟩

/-- LCHK raises LengthOverflow or hands over to PSIZE. -/
theorem execLchk_cases :
    (2 ^ 61 ≤ s.LEN.toNat ∧ execLchk s = .next (s.raise .lengthOverflow)) ∨
    (s.LEN.toNat < 2 ^ 61 ∧ execLchk s = .next { s with PHASE := .psize }) := by
  unfold execLchk
  split
  · exact .inl ⟨‹_›, rfl⟩
  · exact .inr ⟨by omega, rfl⟩

/-- PCHK raises MalformedInput or hands over to PARSEW. -/
theorem execPchk_cases :
    ((s.PLEN.toNat % 64 ≠ 0 ∨ s.N.toNat ≠ s.PLEN.toNat / 64) ∧ execPchk s = .next (s.raise .malformedInput)) ∨
    (s.PLEN.toNat % 64 = 0 ∧ s.N.toNat = s.PLEN.toNat / 64 ∧
      execPchk s = .next { s with J := 0, PHASE := .parsew }) := by
  unfold execPchk
  split
  · exact .inl ⟨‹_›, rfl⟩
  · rename_i h
    exact .inr ⟨by omega, by omega, rfl⟩

/-- PSIZE raises AllocationFailure or stores the five sizes. -/
theorem execPsize_cases :
    (s.NMAX < nblocks s.LEN.toNat ∧ execPsize s = .next (s.raise .allocationFailure)) ∨
    (nblocks s.LEN.toNat ≤ s.NMAX ∧ execPsize s = .next { s with
      L := BitVec.ofNat 64 (bitlen s.LEN.toNat)
      KPAD := BitVec.ofNat 10 (kpad s.LEN.toNat)
      PLEN := BitVec.ofNat 64 (padlen s.LEN.toNat)
      N := BitVec.ofNat 64 (nblocks s.LEN.toNat)
      J := 0
      PHASE := .padb }) := by
  by_cases h : s.NMAX < nblocks s.LEN.toNat
  · exact .inl ⟨h, if_pos h⟩
  · exact .inr ⟨by omega, if_neg h⟩

/-- PADB goes on exactly when its indices exist. -/
theorem execPadb_next :
    execPadb s = .next t ↔
      s.J.toNat < 64 * s.NMAX ∧ (s.J.toNat < s.LEN.toNat → s.J.toNat < 64 * s.NMAX - 9) ∧
      t = { s with
        PBUF := Memory.write s.PBUF s.J.toNat s.padByte
        J := s.J + 1
        PHASE := if s.J.toNat + 1 = s.PLEN.toNat then .pchk else s.PHASE } := by
  simp only [execPadb]
  split <;> simp_all [eq_comm (a := t), and_left_comm]

/-- PARSEW goes on exactly when its indices exist. -/
theorem execParsew_next :
    execParsew s = .next t ↔
      4 * s.J.toNat + 3 < 64 * s.NMAX ∧ s.J.toNat < 16 * s.NMAX ∧
      t = { s with
        WBUF := Memory.write s.WBUF s.J.toNat s.parsedWord
        J := s.J + 1
        PHASE := if s.J.toNat + 1 = 16 * s.N.toNat then .hinit else s.PHASE } := by
  simp only [execParsew, withIndex_eq_next, pbuf_size, wbuf_size, Host.Outcome.next.injEq, eq_comm (a := t)]

/-- SCHED goes on exactly when its indices exist. -/
theorem execSched_next :
    execSched s = .next t ↔
      s.T.toNat < 64 ∧ (s.T.toNat < 16 → 16 * s.I.toNat + s.T.toNat < 16 * s.NMAX) ∧
      t = { s with
        W := s.W.setIfInBounds s.T.toNat s.schedWord
        T := s.T + 1
        PHASE := if s.T.toNat + 1 = 64 then .vars else s.PHASE } := by
  simp only [execSched, State.loadIndex]
  split <;> simp_all [eq_comm (a := t), and_left_comm]

/-- ROUND goes on exactly when its index exists. -/
theorem execRound_next :
    execRound s = .next t ↔
      s.T.toNat < 64 ∧
      t = { s with
        v := ⟨roundT1 s.v (kWord s.T.toNat) (s.wWord s.T.toNat) + roundT2 s.v, s.v.a, s.v.b, s.v.c,
          s.v.d + roundT1 s.v (kWord s.T.toNat) (s.wWord s.T.toNat), s.v.e, s.v.f, s.v.g⟩
        T := s.T + 1
        PHASE := if s.T.toNat + 1 = 64 then .chain else s.PHASE } := by
  simp only [execRound, withIndex_eq_next, k_size, w_size, Host.Outcome.next.injEq, eq_comm (a := t)]
  exact and_self_left

/-- The code of a phase decodes to the operation the phase selects; IDLE selects none. -/
theorem decode_phase_code (p : Phase) :
    decode (.phase p.code) = match p.operation with
      | none => .error .idle
      | some i => .ok i := by
  cases p <;> decide

/-- What a step does, turn by turn. -/
theorem step_eq : step s = match s.turn with
    | .engine => (match s.PHASE.operation with
      | none => .next s.afterTurn
      | some i => exec i s.afterTurn)
    | .host d => exec (decodeHost d) s.afterTurn
    | .reset => .next s.afterTurn.applyReset := by
  unfold step stepCode
  rw [decode_phase_code]
  cases s.turn with
  | engine => cases s.PHASE <;> rfl
  | host d => rfl
  | reset => rfl

/-- A step that goes on is an idle engine turn, an operation of the engine, a host access, or a reset. -/
theorem step_next (h : step s = .next t) :
    (s.turn = .engine ∧ s.PHASE = .idle ∧ t = s.afterTurn) ∨
    (∃ i, s.turn = .engine ∧ s.PHASE.operation = some i ∧ exec i s.afterTurn = .next t) ∨
    (∃ d, s.turn = .host d ∧ exec (decodeHost d) s.afterTurn = .next t) ∨
    (s.turn = .reset ∧ t = s.afterTurn.applyReset) := by
  rw [step_eq] at h
  cases ht : s.turn with
  | engine =>
    rw [ht] at h
    cases hp : s.PHASE.operation with
    | none =>
      rw [hp] at h
      exact .inl ⟨rfl, by cases hq : s.PHASE <;> simp_all [Phase.operation], by simpa using h.symm⟩
    | some i =>
      rw [hp] at h
      exact .inr (.inl ⟨i, rfl, rfl, h⟩)
  | host d =>
    rw [ht] at h
    exact .inr (.inr (.inl ⟨d, rfl, h⟩))
  | reset =>
    rw [ht] at h
    exact .inr (.inr (.inr ⟨rfl, by simpa using h.symm⟩))

/-- What a descriptor decodes to. -/
theorem decodeHost_cases (d : BitVec 130) :
    (∃ n, decodeHost d = .rreg n) ∨ (∃ n v, decodeHost d = .wreg n v) ∨ (∃ j, decodeHost d = .rmsg j) ∨
    (∃ j b, decodeHost d = .wmsg j b) ∨ decodeHost d = .start := by
  unfold decodeHost
  split_ifs <;> simp

end Sys2Proof.Laws
end

