-- ==== Sys2Proof/Laws/HostProgram.lean ====
section
/-! SUPPORT. What a turn, a host access and a line of a host program can do, so that no proof unfolds them. -/

namespace Sys2Proof.Laws

open Sys2Proof.Machine

/-- Two parts of a run go on exactly when the first does and the second does from there. -/
theorem andThen_eq_next {α β : Type} {o : Host.Outcome α Fault Refusal} {f : α → Host.Outcome β Fault Refusal} {b : β} :
    andThen o f = .next b ↔ ∃ a, o = .next a ∧ f a = .next b := by
  cases o <;> simp [andThen]

@[simp] theorem andThen_next {α β : Type} (a : α) (f : α → Host.Outcome β Fault Refusal) : andThen (.next a) f = f a := rfl

/-- A host turn is exec of the access its descriptor decodes to; the script stays. -/
theorem takeTurn_host (s : State) (d : BitVec 130) : s.takeTurn (.host d) = exec (decodeHost d) s := by
  rw [State.takeTurn, step_eq]
  rfl

/-- An engine turn is exec of the operation PHASE selects, or nothing; the script stays. -/
theorem takeTurn_engine (s : State) : s.takeTurn .engine = match s.PHASE.operation with
    | none => .next s
    | some i => exec i s := by
  rw [State.takeTurn, step_eq]
  rfl

@[simp] theorem engineTurns_zero (s : State) : engineTurns 0 s = .next s := rfl

/-- An idle engine does nothing in any number of turns. -/
theorem engineTurns_of_idle {s : State} (h : s.PHASE = .idle) (n : Nat) : engineTurns n s = .next s := by
  induction n with
  | zero => rfl
  | succ n ih =>
    rw [engineTurns, takeTurn_engine, h]
    exact ih

/-- Turns add up. -/
theorem engineTurns_add (m n : Nat) (s : State) :
    engineTurns (m + n) s = andThen (engineTurns m s) (engineTurns n) := by
  induction m generalizing s with
  | zero => simp
  | succ m ih =>
    rw [Nat.succ_add, engineTurns, engineTurns]
    cases s.takeTurn .engine with
    | next t => exact ih t
    | fault r => rfl
    | refused r => rfl

/-- The access of a poll is RREG STATUS: its answer is the STATUS word, and nothing else changes. -/
theorem hostAccess_status (s : State) : hostAccess (.rreg 1) s = .next (s.answer (.word s.status)) := by
  have h : decodeHost (descriptor 0 1 0) = .rreg 1 := by decide
  show s.takeTurn (.host (descriptor 0 1 0)) = _
  rw [takeTurn_host, h]
  rfl

/-- What a poll learns is BUSY. -/
theorem readBusy_answer_status (s : State) : (s.answer (.word s.status)).readBusy = s.busy := by
  show s.status.getLsbD 0 = s.busy
  simp only [State.status, flagBit, BitVec.getLsbD_append]
  cases s.busy <;> rfl

@[simp] theorem runProgram_pace_over (p : List HostLine) (s : State) : runProgram [] p s = .next (s, p) := rfl

/-- A program that is over leaves the state. -/
@[simp] theorem runProgram_over (pace : List Nat) (s : State) : runProgram pace [] s = .next (s, []) := by
  cases pace <;> rfl

/-- A line that is an access. -/
theorem runProgram_access (n : Nat) (pace : List Nat) (i : Instr) (p : List HostLine) (s : State) :
    runProgram (n :: pace) (.access i :: p) s =
      andThen (engineTurns n s) fun u => andThen (hostAccess i u) fun t => runProgram pace p t := rfl

/-- A poll of `wait`: it is over when BUSY = 0, else the loop goes on. -/
theorem runProgram_wait (n : Nat) (pace : List Nat) (p : List HostLine) (s : State) :
    runProgram (n :: pace) (.wait :: p) s = andThen (engineTurns n s) fun u =>
      runProgram pace (if u.busy then .wait :: p else p) (u.answer (.word u.status)) := by
  rw [runProgram]
  simp only [hostAccess_status, andThen_next, readBusy_answer_status]

end Sys2Proof.Laws
end

