-- ==== Sys2Proof/Laws/PerInstr.lean ====
section
/-! SUPPORT. The family TableNumber: the number of an instruction's code, with the bits its table row has in whole bytes,
is read back as that code, so no bit of an encoding is lost in the table's numbering. -/

namespace Sys2Proof.Laws.TableNumber

/-- The bits of the row's format in whole bytes: 130 bits are 17 bytes, 4 bits are one (opcode_table.json, "width"). -/
def tableBits : Code → Nat
  | .host _ => 136
  | .phase _ => 8

/-- The number of an instruction's code reads back as that code. -/
def Statement (i : Instr) : Prop := codeOfNumber (tableBits (encode i)) (encode i).number = .ok (encode i)

/-- Every descriptor fits its 130 bits. -/
theorem of_host {i : Instr} (d : BitVec 130) (h : encode i = .host d) : Statement i := by
  simp only [Statement, h, tableBits, Code.number, codeOfNumber, BitVec.ofNat_toNat, BitVec.setWidth_eq]
  rw [if_neg (by omega), if_pos d.isLt]

/-- Every PHASE code fits its 4 bits. -/
theorem of_phase {i : Instr} (c : BitVec 4) (h : encode i = .phase c) : Statement i := by
  simp only [Statement, h, tableBits, Code.number, codeOfNumber, BitVec.ofNat_toNat, BitVec.setWidth_eq]
  rw [if_pos (by omega), if_pos c.isLt]

theorem rreg (n : DWord) : Statement (.rreg n) := of_host _ rfl
theorem wreg (n v : DWord) : Statement (.wreg n v) := of_host _ rfl
theorem rmsg (j : DWord) : Statement (.rmsg j) := of_host _ rfl
theorem wmsg (j : DWord) (b : Byte) : Statement (.wmsg j b) := of_host _ rfl
theorem start : Statement .start := of_host _ rfl
theorem lchk : Statement .lchk := of_phase _ rfl
theorem psize : Statement .psize := of_phase _ rfl
theorem padb : Statement .padb := of_phase _ rfl
theorem pchk : Statement .pchk := of_phase _ rfl
theorem parsew : Statement .parsew := of_phase _ rfl
theorem hinit : Statement .hinit := of_phase _ rfl
theorem sched : Statement .sched := of_phase _ rfl
theorem vars : Statement .vars := of_phase _ rfl
theorem round : Statement .round := of_phase _ rfl
theorem chain : Statement .chain := of_phase _ rfl
theorem finish : Statement .finish := of_phase _ rfl

end Sys2Proof.Laws.TableNumber
end

