-- ==== Sys2Proof/Tests/Slice0.lean ====
section
/-! SUPPORT. Tests: expected values are written out from spec/95_test_vectors.md and the worked examples of the rules, never
from the model's own answers. -/

namespace Sys2Proof.Tests

open Sys2Proof Sys2Proof.Machine Sys2Proof.Safety

/-- A field of the next state (or of what a run answers). -/
def after {σ α : Type} (o : Host.Outcome σ Fault Refusal) (f : σ → α) : Option α :=
  match o with
  | .next s => some (f s)
  | _ => none

/-- The fault, if any. -/
def faultOf (o : Host.Outcome State Fault Refusal) : Option Fault :=
  match o with
  | .fault r => some r
  | _ => none

/-- An idle machine with "abc" in MSG, LEN = 3 and a given NMAX (95 V2, P1). -/
def abc (n : Nat) : State :=
  { State.reset with NMAX := n, MSG := [(0, 0x61), (1, 0x62), (2, 0x63)], LEN := 3 }

/-- The same in a phase of its run, sized as 40_padder R115's worked example says. -/
def abcIn (p : Phase) : State := { abc 1 with PHASE := p, L := 0x18, KPAD := 423, PLEN := 64, N := 1 }

/-- A finished machine with the "abc" digest (95 section 6.3). -/
def abcDone : State :=
  { abcIn .idle with
    DONE := true
    D := some #v[0xba7816bf, 0x8f01cfea, 0x414140de, 0x5dae2223, 0xb00361a3, 0x96177a9c, 0xb410ff61, 0xf20015ad] }

/-! ### WellFormed -/

theorem test_wreg_cmd_one_is_ill_formed : ¬ (Instr.wreg 0 1).WellFormed := by
  show ¬ ¬ isStartWrite 0 1
  decide

theorem test_wreg_cmd_two_is_well_formed : (Instr.wreg 0 2).WellFormed := by
  show ¬ isStartWrite 0 2
  decide

/-! ### Decoding, words from 30_encoding R91, R95 and 95 sections 1, 7, 9 -/

theorem test_decode_rreg : decodeTableWord 136 0x0000000000000000f0000000000000000 = some (.rreg 15) := by decide

theorem test_decode_wreg : decodeTableWord 136 0x100000000000000022000000000000000 = some (.wreg 2 0x2000000000000000) := by
  decide

theorem test_decode_rmsg : decodeTableWord 136 0x20000000000000000000000000000ffff = some (.rmsg 0) := by decide

theorem test_decode_wmsg : decodeTableWord 136 0x300000000000000370000000000000061 = some (.wmsg 55 0x61) := by decide

theorem test_decode_start : decodeTableWord 136 0x100000000000000000000000100000001 = some .start := by decide

theorem test_decode_phases :
    [1, 2, 3, 4, 5, 6, 7, 8, 9, 10, 11].map (decodeTableWord 8) =
      [some .lchk, some .psize, some .padb, some .pchk, some .parsew, some .hinit, some .sched, some .vars, some .round,
        some .chain, some .finish] := by decide

theorem test_decode_no_operation :
    decodeNumber 8 0 = .error .idle ∧ decodeNumber 8 12 = .error .unusedPhase ∧ decodeNumber 8 15 = .error .unusedPhase ∧
      decodeNumber 8 16 = .error .notACode ∧ decodeNumber 136 (2 ^ 130) = .error .notACode := ⟨rfl, rfl, rfl, rfl, rfl⟩

/-! ### Constants: 42_compressor R141, R142 give their formulas beside the tables (93 G3) -/

/-- The first 64 primes (R142: 2, 3, 5, …, 311). -/
def primes : List Nat :=
  [2, 3, 5, 7, 11, 13, 17, 19, 23, 29, 31, 37, 41, 43, 47, 53, 59, 61, 67, 71, 73, 79, 83, 89, 97, 101, 103, 107, 109, 113,
    127, 131] ++
  [137, 139, 149, 151, 157, 163, 167, 173, 179, 181, 191, 193, 197, 199, 211, 223, 227, 229, 233, 239, 241, 251, 257, 263,
    269, 271, 277, 281, 283, 293, 307, 311]

/-- Is x = floor(cbrt(p · 2^96)) for some integer part c of the root? -/
def isCubeRootFraction (p x : Nat) : Bool :=
  (List.range 7).any fun c => (c * 2 ^ 32 + x) ^ 3 ≤ p * 2 ^ 96 && p * 2 ^ 96 < (c * 2 ^ 32 + x + 1) ^ 3

/-- The same for square roots. -/
def isSquareRootFraction (p x : Nat) : Bool :=
  (List.range 5).any fun c => (c * 2 ^ 32 + x) ^ 2 ≤ p * 2 ^ 64 && p * 2 ^ 64 < (c * 2 ^ 32 + x + 1) ^ 2

/-- The words of K from t on, n of them. -/
def kRowOk (t n : Nat) : Bool :=
  (List.range n).all fun i => isCubeRootFraction (primes.getD (t + i) 0) (kWord (t + i)).toNat

theorem test_k_is_the_cube_root_fraction_low : kRowOk 0 16 = true ∧ kRowOk 16 16 = true := by decide

theorem test_k_is_the_cube_root_fraction_high : kRowOk 32 16 = true ∧ kRowOk 48 16 = true := by decide

theorem test_h_init_is_the_square_root_fraction :
    ((List.range 8).all fun i => isSquareRootFraction (primes.getD i 0) (hInitTable.getD i 0).toNat) = true := by decide

/-! ### Word operations (95 section 3) -/

theorem test_rotr_shr : ROTR 0x12345678 25 = 0x1a2b3c09 ∧ SHR 0x12345678 3 = 0x02468acf := by decide

theorem test_sig_sum :
    SIG0 0x12345678 = 0xe7fce6ee ∧ SIG1 0x12345678 = 0xa1f78649 ∧ SUM0 0x12345678 = 0x66146474 ∧
      SUM1 0x12345678 = 0x3561abda := by decide

theorem test_ch_maj :
    CH 0xf0f0f0f0 0x12345678 0x9abcdef0 = 0x1a3c5e70 ∧ MAJ 0xf0f0f0f0 0x12345678 0x9abcdef0 = 0x92b4d6f0 := by decide

theorem test_be32 : be32 0x01 0x02 0x03 0x04 = 0x01020304 := by decide

/-- 95 section 4.1. -/
theorem test_length_functions :
    [0, 3, 55, 56, 64, 119, 120].map (fun n => (kpad n, zpad n, padlen n, nblocks n)) =
      [(447, 55, 64, 1), (423, 52, 64, 1), (7, 0, 64, 1), (511, 63, 128, 2), (447, 55, 128, 2), (7, 0, 128, 2),
        (511, 63, 192, 3)] ∧
    kpad (2 ^ 61 - 1) = 455 ∧ padlen (2 ^ 61 - 1) = 2 ^ 61 + 64 := by decide

/-- 95 section 4.2: pad of "abc", and section 5.3: its words. -/
theorem test_pad_and_parse_abc :
    pad [0x61, 0x62, 0x63] = [0x61, 0x62, 0x63, 0x80] ++ List.replicate 59 0x00 ++ [0x18] ∧
    (parse (pad [0x61, 0x62, 0x63])).head? = some 0x61626380 ∧
    (parse (pad [0x61, 0x62, 0x63])).getLast? = some 0x00000018 := by decide

/-! ### Host accesses (95 section 7) -/

theorem test_rreg_status_done : after (exec (.rreg 1) abcDone) (·.returned) = some [.word 0x00000002] := by decide

theorem test_rreg_results :
    after (exec (.rreg 8) abcDone) (·.returned) = some [.word 0xba7816bf] ∧
    after (exec (.rreg 15) abcDone) (·.returned) = some [.word 0xf20015ad] ∧
    after (exec (.rreg 3) abcDone) (·.returned) = some [.dword 1] ∧
    after (exec (.rreg 4) abcDone) (·.returned) = some [.dword 64] := by decide

theorem test_wreg_len_idle : after (exec (.wreg 2 0xffffffffffffffff) State.reset) (·.LEN) =
    some 0xffffffffffffffff := by decide

theorem test_wreg_len_busy : after (exec (.wreg 2 9) (abcIn .padb)) (·.LEN) = some 3 := by decide

theorem test_rmsg : after (exec (.rmsg 2) (abc 1)) (·.returned) = some [.byte 0x63] := by decide

theorem test_wmsg_capacity :
    after (exec (.wmsg 246 0x61) { State.reset with NMAX := 4 }) (·.MSG) = some [(246, 0x61)] ∧
    after (exec (.wmsg 247 0x61) { State.reset with NMAX := 4 }) (·.MSG) = some [] := by decide

theorem test_wmsg_busy : after (exec (.wmsg 0 0x7a) (abcIn .padb)) (·.msgByte 0) = some 0x61 := by decide

theorem test_start_done :
    after (exec .start abcDone) (fun s => (s.PHASE, s.DONE, s.D)) = some (.lchk, false, none) := by decide

theorem test_start_busy : after (exec .start (abcIn .round)) (·.PHASE) = some .round := by decide

/-! ### Engine operations: worked examples of the rules and 95 sections 4 to 6, 8 -/

theorem test_lchk_limit :
    after (exec .lchk { abc 1 with LEN := 0x1fffffffffffffff }) (·.PHASE) = some .psize ∧
    after (exec .lchk { abc 1 with LEN := 0x2000000000000000 }) (fun s => (s.PHASE, s.status)) =
      some (.idle, 0x0000001c) := by decide

theorem test_psize_abc :
    after (exec .psize (abc 1)) (fun s => (s.L, s.KPAD, s.PLEN, s.N, s.J, s.PHASE)) =
      some (0x18, 423, 64, 1, 0, .padb) := by decide

theorem test_psize_allocation :
    after (exec .psize { abc 1 with LEN := 56, PHASE := .psize }) (fun s => (s.status, s.PLEN)) =
      some (0x0000000c, 0) := by decide

theorem test_padb_message : after (exec .padb (abcIn .padb)) (fun s => (s.PBUF, s.J)) = some ([(0, 0x61)], 1) := by decide

theorem test_padb_last :
    after (exec .padb { abcIn .padb with J := 63 }) (fun s => (s.PBUF, s.J, s.PHASE)) =
      some ([(63, 0x18)], 64, .pchk) := by decide

theorem test_pchk :
    after (exec .pchk (abcIn .pchk)) (fun s => (s.J, s.PHASE)) = some (0, .parsew) ∧
    after (exec .pchk { abcIn .pchk with PLEN := 65 }) (·.status) = some 0x00000014 := by decide

theorem test_parsew_first :
    after (exec .parsew { abcIn .parsew with PBUF := [(0, 0x61), (1, 0x62), (2, 0x63), (3, 0x80)] })
      (fun s => (s.WBUF, s.J)) = some ([(0, 0x61626380)], 1) := by decide

theorem test_parsew_last :
    after (exec .parsew { abcIn .parsew with J := 15, PBUF := [(60, 0x00), (61, 0x00), (62, 0x00), (63, 0x18)] })
      (fun s => (s.WBUF, s.J, s.PHASE)) = some ([(15, 0x00000018)], 16, .hinit) := by decide

theorem test_hinit :
    after (exec .hinit (abcIn .hinit)) (fun s => (s.H[0], s.H[7], s.PHASE)) =
      some (0x6a09e667, 0x5be0cd19, .sched) := by decide

theorem test_sched_load :
    after (exec .sched { abcIn .sched with WBUF := [(15, 0x00000018)], T := 15 }) (fun s => (s.W[15], s.T)) =
      some (0x00000018, 16) := by decide

/-- 95 section 6.1: W[31], "the first word in which all four terms are non-zero". -/
theorem test_sched_expand :
    after (exec .sched { abcIn .sched with
      T := 31
      W := (((State.reset.W.set! 29 0xec8726cb).set! 24 0xc8215c1a).set! 16 0x61626380).set! 15 0x00000018 })
      (fun s => s.W[31]) = some 0xd3b7973b := by decide

/-- The working variables of 42_compressor R146. -/
def initialVars : WorkVars :=
  ⟨0x6a09e667, 0xbb67ae85, 0x3c6ef372, 0xa54ff53a, 0x510e527f, 0x9b05688c, 0x1f83d9ab, 0x5be0cd19⟩

theorem test_vars :
    after (exec .vars { abcIn .vars with H := hInitTable, T := 64 }) (fun s => (s.v, s.T, s.PHASE)) =
      some (initialVars, 0, .round) := by decide

/-- 42_compressor R147, the worked example of T = 0. -/
theorem test_round_zero :
    after (exec .round { abcIn .round with v := initialVars, W := State.reset.W.set! 0 0x61626380 })
      (fun s => (s.v, s.T, s.PHASE)) =
    some (⟨0x5d6aebcd, 0x6a09e667, 0xbb67ae85, 0x3c6ef372, 0xfa2a4622, 0x510e527f, 0x9b05688c, 0x1f83d9ab⟩, 1, .round) := by
  decide

/-- 95 section 6.2, the row T = 63 from the row T = 62. -/
theorem test_round_last :
    after (exec .round { abcIn .round with
      v := ⟨0xd39a2165, 0x04d24d6c, 0xb85e2ce9, 0xb6ae8fff, 0xfb121210, 0x948d25b6, 0x961f4894, 0xb21bad3d⟩
      T := 63
      W := State.reset.W.set! 63 0x12b1edeb }) (fun s => (s.v, s.T, s.PHASE)) =
    some (⟨0x506e3058, 0xd39a2165, 0x04d24d6c, 0xb85e2ce9, 0x5ef50f24, 0xfb121210, 0x948d25b6, 0x961f4894⟩, 64,
      .chain) := by decide

/-- 42_compressor R148, the worked example. -/
theorem test_chain_abc :
    after (exec .chain { abcIn .chain with
      H := hInitTable
      v := ⟨0x506e3058, 0xd39a2165, 0x04d24d6c, 0xb85e2ce9, 0x5ef50f24, 0xfb121210, 0x948d25b6, 0x961f4894⟩
      T := 64 }) (fun s => (some s.H, s.I, s.T, s.PHASE)) = some (abcDone.D, 1, 64, .finish) := by decide

/-- 95 section 6.5: after block 0 of two, T <- 0 and PHASE <- SCHED. -/
theorem test_chain_next_block :
    after (exec .chain { abcIn .chain with N := 2, T := 64 }) (fun s => (s.I, s.T, s.PHASE)) =
      some (1, 0, .sched) := by decide

theorem test_finish :
    after (exec .finish { abcIn .finish with H := hInitTable }) (fun s => (s.D, s.status, s.PHASE)) =
      some (some hInitTable, 0x00000002, .idle) := by decide

/-! ### Turns -/

/-- 95 P5: while BUSY a host turn is dropped and the engine goes on at the next turn. -/
theorem test_step_turns :
    after (step { abcIn .hinit with script := [.host 0x100000000000000000000000000000001, .engine] })
      (fun s => (s.PHASE, s.script)) = some (.hinit, [.engine]) ∧
    after (step { abcIn .hinit with script := [.engine] }) (·.PHASE) = some .sched ∧
    after (step { abcIn .hinit with script := [.reset] }) (fun s => (s.PHASE, s.LEN)) = some (.idle, 0) ∧
    after (step State.reset) (·.PHASE) = some .idle := by decide

/-- The fetch of a table word: each row runs as the first step after reset. -/
theorem test_fetch_word :
    after (step (State.reset.withFetchWord 8 6)) (·.PHASE) = some .sched ∧
    after (step (State.reset.withFetchWord 136 0x100000000000000000000000000000001)) (·.PHASE) = some .lchk := by decide

/-! ### Witnesses: for each obligation with hypotheses, concrete states and operands that meet them

A clause with its own range has a witness at the ends of that range. -/

/-- One step of padding "abc" is done (40_padder R116, the worked example). -/
def padding : State := { abcIn .padb with J := 1, PBUF := [(0, 0x61)] }

/-- "abc" is parsed and the compressor begins (95 section 5.3). -/
def scheduling : State :=
  { abcIn .sched with
    H := hInitTable
    J := 16
    WBUF := [(0, 0x61626380), (1, 0), (2, 0), (3, 0), (4, 0), (5, 0), (6, 0), (7, 0), (8, 0), (9, 0), (10, 0), (11, 0),
      (12, 0), (13, 0), (14, 0), (15, 0x18)] }

/-- The last step of the run of "abc". -/
def finishing : State := { abcIn .finish with H := sha256 [0x61, 0x62, 0x63], I := 1, T := 64, J := 16 }

/-- The padded length is being checked. -/
def checking : State := { abcIn .pchk with J := 64 }

/-- A run that ended with AllocationFailure (95 section 8). -/
def failed : State := { abc 1 with LEN := 56, ERROR := true, ERRCODE := 1 }

/-- A call has just been accepted. -/
def started (n : Nat) (len : DWord) : State := { abc n with PHASE := .lchk, LEN := len }

theorem padding_inv : ControlInv padding where
  capacity := by decide
  memory := ⟨by decide, by decide, by decide, by decide, by decide, by decide⟩
  flags := ⟨by decide, by decide, by decide, by decide, by decide⟩
  counters :=
    ⟨fun _ => by decide, fun _ => ⟨by decide, by decide, by decide, by decide, by decide, by decide⟩, by decide,
      by decide, by decide, by decide, by decide, by decide, by decide, by decide⟩

theorem padding_data : DataInv padding :=
  ⟨fun _ => by decide, by decide, by decide, by decide, by decide, by decide, by decide, by decide, by decide⟩

theorem scheduling_inv : ControlInv scheduling where
  capacity := by decide
  memory := ⟨by decide, by decide, by decide, by decide, by decide, by decide⟩
  flags := ⟨by decide, by decide, by decide, by decide, by decide⟩
  counters :=
    ⟨fun _ => by decide, fun _ => ⟨by decide, by decide, by decide, by decide, by decide, by decide⟩, by decide,
      by decide, by decide, by decide, by decide, by decide, by decide, by decide⟩

theorem scheduling_data : DataInv scheduling :=
  ⟨by decide, by decide, by decide, fun _ => by decide, fun _ => rfl, fun _ t h => absurd h (Nat.not_lt_zero t),
    by decide, by decide, by decide⟩

theorem finishing_inv : ControlInv finishing where
  capacity := by decide
  memory := ⟨by decide, by decide, by decide, by decide, by decide, by decide⟩
  flags := ⟨by decide, by decide, by decide, by decide, by decide⟩
  counters :=
    ⟨fun _ => by decide, fun _ => ⟨by decide, by decide, by decide, by decide, by decide, by decide⟩, by decide,
      by decide, by decide, by decide, by decide, by decide, by decide, by decide⟩

theorem finishing_data : DataInv finishing :=
  ⟨by decide, by decide, by decide, by decide, by decide, by decide, by decide, by decide,
    fun _ => congrArg sha256 (by decide : [0x61, 0x62, 0x63] = finishing.message)⟩

theorem checking_inv : ControlInv checking where
  capacity := by decide
  memory := ⟨by decide, by decide, by decide, by decide, by decide, by decide⟩
  flags := ⟨by decide, by decide, by decide, by decide, by decide⟩
  counters :=
    ⟨fun _ => by decide, fun _ => ⟨by decide, by decide, by decide, by decide, by decide, by decide⟩, by decide,
      by decide, by decide, by decide, by decide, by decide, by decide, by decide⟩

theorem abcDone_inv : ControlInv abcDone where
  capacity := by decide
  memory := ⟨by decide, by decide, by decide, by decide, by decide, by decide⟩
  flags := ⟨by decide, by decide, by decide, by decide, by decide⟩
  counters := ⟨by decide, fun h => absurd (by decide) h, by decide, by decide, by decide, by decide, by decide, by decide,
    by decide, by decide⟩

theorem failed_inv : ControlInv failed where
  capacity := by decide
  memory := ⟨by decide, by decide, by decide, by decide, by decide, by decide⟩
  flags := ⟨by decide, by decide, by decide, by decide, by decide⟩
  counters := ⟨by decide, fun h => absurd (by decide) h, by decide, by decide, by decide, by decide, by decide, by decide,
    by decide, by decide⟩

theorem started_just (n : Nat) (len : DWord) : JustStarted (started n len) := ⟨rfl, rfl, rfl, rfl, rfl⟩

/-- DecodeOfEncodeIsIdentity, EventsThatAreNotErrors, WregEffects: an ordinary write to CMD. -/
theorem witness_well_formed : (Instr.wreg 0 2).WellFormed ∧ (2 : DWord).extractLsb' 0 32 ≠ 1 :=
  ⟨test_wreg_cmd_two_is_well_formed, by decide⟩

/-- DecodeFollowsOpcodeTable: a code that selects and codes that do not. -/
theorem witness_decode : decode (.phase 11) = .ok .finish ∧ (∀ i, decode (.phase 0) ≠ .ok i) ∧
    ∀ i, decode (.phase 12) ≠ .ok i := ⟨rfl, nofun, nofun⟩

/-- StepRunsTheSelectedOperation: a turn of the engine, one of the host, and an idle one. -/
theorem witness_turns :
    padding.turn = .engine ∧ decode (.phase padding.PHASE.code) = .ok .padb ∧
    ({ padding with script := [.host 0] } : State).turn = .host 0 ∧ decode (.host 0) = .ok (.rreg 0) ∧
    State.reset.turn = .engine ∧ State.reset.PHASE = .idle ∧ State.reset.script = [] :=
  ⟨rfl, rfl, rfl, rfl, rfl, rfl, rfl⟩

/-- ResetTurnGivesResetState, and HostTurnWhileBusyChangesNothing. -/
theorem witness_script :
    ({ padding with script := [.reset] } : State).script = .reset :: [] ∧
    ({ padding with script := [.host 0] } : State).script = .host 0 :: [] ∧ padding.PHASE ≠ .idle :=
  ⟨rfl, rfl, by decide⟩

/-- InvariantsHoldAtReset: both ends of R7's range. -/
theorem witness_capacity : Config.LegalCapacity 1 ∧ Config.LegalCapacity (2 ^ 55 + 1) := by decide

/-- StepKeepsControlInvariant, StepKeepsDataInvariant, ControlledStepNeverStops: states in and at the end of a run. -/
theorem witness_invariants :
    (ControlInv padding ∧ DataInv padding ∧ ∃ t, step padding = .next t) ∧
    (ControlInv scheduling ∧ DataInv scheduling ∧ ∃ t, step scheduling = .next t) ∧
    (ControlInv finishing ∧ DataInv finishing ∧ ∃ t, step finishing = .next t) :=
  ⟨⟨padding_inv, padding_data, _, rfl⟩, ⟨scheduling_inv, scheduling_data, _, rfl⟩,
    ⟨finishing_inv, finishing_data, _, rfl⟩⟩

/-- StatusHasSixValues: each of its three cases. -/
theorem witness_status :
    (ControlInv padding ∧ padding.PHASE ≠ .idle) ∧
    (ControlInv abcDone ∧ abcDone.PHASE = .idle ∧ abcDone.DONE = true) ∧
    (ControlInv failed ∧ failed.PHASE = .idle ∧ failed.DONE = false ∧ failed.status = 0x0000000c) :=
  ⟨⟨padding_inv, by decide⟩, ⟨abcDone_inv, rfl, rfl⟩, ⟨failed_inv, rfl, rfl, by decide⟩⟩

/-- PchkNeverFailsInARun. -/
theorem witness_pchk : ControlInv checking ∧ checking.PHASE = .pchk := ⟨checking_inv, rfl⟩

/-- RregAnswers: every case at the ends of its range, with and without a digest. -/
theorem witness_rreg :
    (FlagsInv padding ∧ padding.PHASE ≠ .idle ∧ padding.DONE = false) ∧
    (abcDone.DONE = true ∧ abcDone.D.isSome ∧ (8 : DWord).toNat = 8 + (0 : Fin 8).val ∧
      (15 : DWord).toNat = 8 + (7 : Fin 8).val) ∧
    (8 ≤ (8 : DWord).toNat ∧ (15 : DWord).toNat ≤ 15) ∧
    (5 ≤ (5 : DWord).toNat ∧ (7 : DWord).toNat ≤ 7 ∧ 16 ≤ (16 : DWord).toNat ∧
      16 ≤ (0xffffffffffffffff : DWord).toNat) :=
  ⟨⟨padding_inv.flags, by decide, rfl⟩, by decide, by decide, by decide⟩

/-- WregEffects, StartEffects, WmsgEffects, EventsThatAreNotErrors: idle and busy, START and no START, the last index of MSG
and the first beyond it, read-only and reserved register numbers. -/
theorem witness_writes :
    (abc 1).PHASE = .idle ∧ padding.PHASE ≠ .idle ∧ (0x100000001 : DWord).extractLsb' 0 32 = 1 ∧
    (54 : DWord).toNat < 64 * (abc 1).NMAX - 9 ∧ 64 * (abc 1).NMAX - 9 ≤ (55 : DWord).toNat ∧
    (1 : DWord).toNat = 1 ∧ 3 ≤ (3 : DWord).toNat := by decide

/-- RmsgAnswers: a written byte, an unwritten one, the last index and the first beyond it. -/
theorem witness_rmsg :
    (Memory.find (abc 1).MSG 2 = some 0x63 ∧ (2 : DWord).toNat < 64 * (abc 1).NMAX - 9) ∧
    (Memory.find (abc 1).MSG 54 = none ∧ (54 : DWord).toNat < 64 * (abc 1).NMAX - 9) ∧
    64 * (abc 1).NMAX - 9 ≤ (55 : DWord).toNat := by decide

/-- HostReadsSeeOnlyTheHostView: two machines that differ only where the host cannot look. -/
theorem witness_host_view :
    (abc 1).status = { abc 1 with H := hInitTable, J := 5 }.status ∧ (abc 1).DONE = false ∧
    (∃ t, exec (.rreg 8) (abc 1) = .next t) ∧ ∃ t, exec (.rreg 8) { abc 1 with H := hInitTable, J := 5 } = .next t :=
  ⟨rfl, rfl, ⟨_, rfl⟩, ⟨_, rfl⟩⟩

/-- LchkEffects, PsizeEffects, LengthFunctions: the last legal length and the first beyond; a capacity that is met and one
that is not. -/
theorem witness_lengths :
    (started 1 0x1fffffffffffffff).LEN.toNat < 2 ^ 61 ∧ 2 ^ 61 ≤ (started 1 0x2000000000000000).LEN.toNat ∧
    nblocks (started 1 55).LEN.toNat ≤ (started 1 55).NMAX ∧
    (started 1 56).NMAX < nblocks (started 1 56).LEN.toNat ∧
    nblocks 0x1fffffffffffffff ≤ (started (2 ^ 55 + 1) 0x1fffffffffffffff).NMAX := by decide

/-- The precondition of PADB as PadbEffects states it. -/
abbrev PadbReady (s : State) : Prop :=
  s.J.toNat < s.PLEN.toNat ∧ s.J.toNat < 64 * s.NMAX ∧ (s.J.toNat < s.LEN.toNat → s.J.toNat < 64 * s.NMAX - 9)

/-- PadbEffects, PadderWritesOnlyItsOwn: the first and last index of each of the four cases, and the last byte. -/
theorem witness_padb :
    ([0, 2, 3, 4, 55, 56, 63].all fun j => decide (PadbReady { padding with J := BitVec.ofNat 64 j })) = true ∧
    ({ padding with J := 2 } : State).J.toNat < padding.LEN.toNat ∧
    ({ padding with J := 3 } : State).J.toNat = padding.LEN.toNat ∧
    ({ padding with J := 55 } : State).J.toNat + 8 < padding.PLEN.toNat ∧
    padding.PLEN.toNat ≤ ({ padding with J := 56 } : State).J.toNat + 8 ∧
    ({ padding with J := 63 } : State).J.toNat + 1 = padding.PLEN.toNat ∧
    (∃ t, exec .psize (started 1 3) = .next t ∧ t.PHASE = .padb) ∧ ∃ t, exec .padb padding = .next t :=
  ⟨by decide, by decide, by decide, by decide, by decide, by decide, ⟨_, rfl, rfl⟩, ⟨_, rfl⟩⟩

/-- PchkEffects: both disjuncts of the failing condition, and the passing one. -/
theorem witness_pchk_cases :
    ({ checking with PLEN := 65 } : State).PLEN.toNat % 64 ≠ 0 ∧
    ({ checking with N := 2 } : State).N.toNat ≠ checking.PLEN.toNat / 64 ∧
    checking.PLEN.toNat % 64 = 0 ∧ checking.N.toNat = checking.PLEN.toNat / 64 := by decide

/-- ParsewEffects: the first word and the last. -/
theorem witness_parsew :
    Config.LegalCapacity (abcIn .parsew).NMAX ∧
    (abcIn .parsew).J.toNat < 16 * (abcIn .parsew).N.toNat ∧ (abcIn .parsew).J.toNat < 16 * (abcIn .parsew).NMAX ∧
    (15 : DWord).toNat < 16 * (abcIn .parsew).N.toNat ∧ (15 : DWord).toNat + 1 = 16 * (abcIn .parsew).N.toNat := by decide

/-- SchedEffects, RoundEffects: T = 0, 15, 16 and 63; ChainEffects: a block that is not the last and one that is. -/
theorem witness_compressor :
    (∀ t ∈ [(0 : BitVec 7), 15, 16, 63], t.toNat < 64 ∧
      (t.toNat < 16 → 16 * scheduling.I.toNat + t.toNat < 16 * scheduling.NMAX)) ∧
    ({ scheduling with N := 2 } : State).I.toNat + 1 < ({ scheduling with N := 2 } : State).N.toNat ∧
    scheduling.N.toNat ≤ scheduling.I.toNat + 1 := by decide

/-- ErrorEntryWritesThreeThings: the three errors, and one in a run. -/
theorem witness_errors :
    (∃ t, exec .lchk (started 1 0x2000000000000000) = .next t ∧ t.ERROR = true) ∧
    (∃ t, exec .psize { abc 1 with LEN := 56, PHASE := .psize } = .next t ∧ t.ERROR = true) ∧
    (∃ t, exec .pchk { checking with PLEN := 65 } = .next t ∧ t.ERROR = true) ∧
    ControlInv checking ∧ checking.PHASE ≠ .idle ∧ checking.ERROR = false :=
  ⟨⟨_, rfl, rfl⟩, ⟨_, rfl, rfl⟩, ⟨_, rfl, rfl⟩, checking_inv, by decide, rfl⟩

/-- FailedStateLastsUntilStart: with an engine turn, and with the host's START. -/
theorem witness_failed :
    ControlInv failed ∧ failed.ERROR = true ∧ failed.turn ≠ .reset ∧ (∃ t, step failed = .next t) ∧
    ∃ t, step { failed with script := [.host 0x100000000000000000000000000000001] } = .next t :=
  ⟨failed_inv, rfl, by decide, ⟨_, rfl⟩, ⟨_, rfl⟩⟩

/-- FlagsChangeOnlyWhereTheTableSays, DigestIsStable, StorageHasOneWriter, CompressorWritesOnlyItsOwn, PhaseSuccessors. -/
theorem witness_writers :
    (∃ t, exec .finish finishing = .next t ∧ t.DONE ≠ finishing.DONE ∧ t.D ≠ finishing.D) ∧
    (∃ t, exec .lchk (started 1 0x2000000000000000) = .next t ∧ t.ERRCODE ≠ 0) ∧
    (∃ t, exec (.wmsg 0 0x7a) (abc 1) = .next t ∧ t.MSG ≠ (abc 1).MSG) ∧
    (∃ t, exec (.wreg 2 9) (abc 1) = .next t ∧ t.LEN ≠ (abc 1).LEN) ∧
    (∃ t, exec .padb padding = .next t ∧ t.PBUF ≠ padding.PBUF) ∧
    (∃ t, exec .parsew (abcIn .parsew) = .next t ∧ t.WBUF ≠ []) ∧
    (∃ t, exec .sched scheduling = .next t ∧ t.W ≠ scheduling.W) ∧
    Instr.sched ∈ [Instr.hinit, .sched, .vars, .round, .chain, .finish] ∧
    scheduling.PHASE.operation = some .sched :=
  ⟨⟨_, rfl, by decide, nofun⟩, ⟨_, rfl, by decide⟩, ⟨_, rfl, by decide⟩, ⟨_, rfl, by decide⟩, ⟨_, rfl, by decide⟩,
    ⟨_, rfl, nofun⟩, ⟨_, rfl, by decide⟩, by decide, rfl⟩

/-- WordOperations: the smallest and the largest amount. -/
theorem witness_amounts : (0 < 1 ∧ 1 < 32) ∧ (0 < 31 ∧ 31 < 32) := by decide

/-- PaddedMessageInvariants, PaddedMessageBytes, LengthFieldIsBigEndian: the empty message, and one of 55 bytes, whose
padding has no zero byte (40_padder R119). -/
theorem witness_messages :
    ([] : List Byte).length < 2 ^ 61 ∧ (List.replicate 55 (0x61 : Byte)).length < 2 ^ 61 ∧ 0 < padlen 0 ∧
    63 < padlen 55 ∧ padlen 55 ≤ 56 + 8 ∧ 0 < 1 ∧ 1 + 8 < padlen 0 := by decide

/-- ParseIsBigEndianAndBijective, ReferenceRecurrences: one block of bytes and its words. -/
theorem witness_block :
    (List.replicate 64 (0 : Byte)).length = 64 * 1 ∧ (List.replicate 16 (0 : Word)).length = 16 * 1 ∧
    parse (List.replicate 64 0) = List.replicate 16 0 := by decide

/-- PadderComputesPad: "abc" before PSIZE. -/
theorem witness_padder :
    (abc 1).script = [] ∧ ({ abc 1 with PHASE := .psize } : State).PHASE = .psize ∧ (abc 1).LEN.toNat < 2 ^ 61 ∧
    nblocks (abc 1).LEN.toNat ≤ (abc 1).NMAX := by decide

/-- ParserComputesParse: a buffer of one block whose bytes are what PBUF reads as. -/
theorem witness_parser :
    checking.script = [] ∧ checking.PHASE = .pchk ∧ checking.PLEN.toNat = 64 * checking.N.toNat ∧
    1 ≤ checking.N.toNat ∧ checking.N.toNat ≤ checking.NMAX ∧
    ((List.range 64).map checking.pbufByte).length = 64 * checking.N.toNat ∧
    ∀ k < checking.PLEN.toNat, ((List.range 64).map checking.pbufByte)[k]? = some (checking.pbufByte k) :=
  ⟨rfl, rfl, by decide, by decide, by decide, by simp [checking, abcIn, abc],
    fun k h => by
      have hk : k < 64 := h
      simp [hk]⟩

/-- CompressorComputesCompress: the words of "abc" before HINIT. -/
theorem witness_compression :
    ({ scheduling with PHASE := .hinit } : State).PHASE = .hinit ∧ scheduling.script = [] ∧
    1 ≤ scheduling.N.toNat ∧ scheduling.N.toNat ≤ scheduling.NMAX ∧
    (parse (pad [0x61, 0x62, 0x63])).length = 16 * scheduling.N.toNat ∧
    (∀ w < 16 * scheduling.N.toNat, (parse (pad [0x61, 0x62, 0x63]))[w]? = some (scheduling.wbufWord w)) ∧
    0 < scheduling.N.toNat := by decide

/-- RunFollowsThePhaseOrder, RunEndsWithSha256, EveryRunEnds: a call of each of the three kinds. -/
theorem witness_runs :
    JustStarted (started 1 3) ∧ (started 1 3).script = [] ∧ (started 1 3).LEN.toNat < 2 ^ 61 ∧
    nblocks (started 1 3).LEN.toNat ≤ (started 1 3).NMAX ∧ 0 < runSteps (nblocks (started 1 3).LEN.toNat) ∧
    JustStarted (started 1 56) ∧ (started 1 56).NMAX < nblocks (started 1 56).LEN.toNat ∧
    JustStarted (started 1 0x2000000000000000) ∧ 2 ^ 61 ≤ (started 1 0x2000000000000000).LEN.toNat :=
  ⟨started_just _ _, rfl, by decide, by decide, by decide, started_just _ _, by decide, started_just _ _, by decide⟩

/-- A rejected call in which the host polls STATUS before the engine's first step. -/
def polled (len : DWord) : State := { started 1 len with script := [.host 0x10000000000000000] }

/-- ResultUnderEveryInterleaving, the first case: LengthOverflow ends the run. -/
theorem witness_overflow_end :
    JustStarted (polled 0x2000000000000000) ∧ NoReset (polled 0x2000000000000000) ∧
    2 ^ 61 ≤ (polled 0x2000000000000000).LEN.toNat ∧ ∃ t, EndsAfter 2 (polled 0x2000000000000000) t :=
  ⟨⟨rfl, rfl, rfl, rfl, rfl⟩, by unfold NoReset; decide, by decide, _, rfl, rfl, fun j hj u hu => by
    match j, hj with
    | 0, _ => cases hu; decide
    | 1, _ => cases hu; decide⟩

/-- ResultUnderEveryInterleaving, the second case: AllocationFailure. -/
theorem witness_allocation_end :
    JustStarted (polled 56) ∧ NoReset (polled 56) ∧ (polled 56).NMAX < nblocks (polled 56).LEN.toNat ∧
    ∃ t, EndsAfter 3 (polled 56) t :=
  ⟨⟨rfl, rfl, rfl, rfl, rfl⟩, by unfold NoReset; decide, by decide, _, rfl, rfl, fun j hj u hu => by
    match j, hj with
    | 0, _ => cases hu; decide
    | 1, _ => cases hu; decide
    | 2, _ => cases hu; decide⟩

/-- ResultUnderEveryInterleaving, the third case, and ResultDependsOnlyOnTheInputs with a digest: two calls of "abc", one
polled and one with other contents of H. By EveryRunEnds each of them ends. -/
theorem witness_digest_end (h : Obligations.EveryRunEnds) :
    JustStarted (polled 3) ∧ NoReset (polled 3) ∧ (polled 3).LEN.toNat < 2 ^ 61 ∧
    nblocks (polled 3).LEN.toNat ≤ (polled 3).NMAX ∧ (∃ k t, EndsAfter k (polled 3) t) ∧
    JustStarted { started 1 3 with H := hInitTable } ∧ NoReset { started 1 3 with H := hInitTable } ∧
    (polled 3).message = { started 1 3 with H := hInitTable }.message ∧
    ∃ k t, EndsAfter k { started 1 3 with H := hInitTable } t :=
  ⟨⟨rfl, rfl, rfl, rfl, rfl⟩, by unfold NoReset; decide, by decide, by decide,
    (h (polled 3) ⟨rfl, rfl, rfl, rfl, rfl⟩).elim fun k hk => hk.elim fun t ht => ⟨k, t, ht.2⟩,
    ⟨rfl, rfl, rfl, rfl, rfl⟩, by unfold NoReset; decide, by decide,
    (h { started 1 3 with H := hInitTable } ⟨rfl, rfl, rfl, rfl, rfl⟩).elim fun k hk => hk.elim fun t ht => ⟨k, t, ht.2⟩⟩

/-- ResultDependsOnlyOnTheInputs: the same call with and without a poll, and with other contents of H. -/
theorem witness_same_inputs :
    (polled 56).LEN = { started 1 56 with H := hInitTable }.LEN ∧
    (polled 56).NMAX = { started 1 56 with H := hInitTable }.NMAX ∧
    (polled 56).message = { started 1 56 with H := hInitTable }.message ∧
    JustStarted { started 1 56 with H := hInitTable } ∧ NoReset { started 1 56 with H := hInitTable } ∧
    ∃ t, EndsAfter 2 { started 1 56 with H := hInitTable } t :=
  ⟨rfl, rfl, rfl, ⟨rfl, rfl, rfl, rfl, rfl⟩, by unfold NoReset; decide, _, rfl, rfl, fun j hj u hu => by
    match j, hj with
    | 0, _ => cases hu; decide
    | 1, _ => cases hu; decide⟩

/-- HashCallDeliversSha256: the empty message on the smallest machine, and the longest message that fits it. -/
theorem witness_hash_call :
    Config.LegalCapacity ({ abc 1 with script := hostTurns (hashCall []) } : State).NMAX ∧ (abc 1).PHASE = .idle ∧
    ([] : List Byte).length ≤ 64 * (abc 1).NMAX - 9 ∧
    (List.replicate 55 (0x61 : Byte)).length ≤ 64 * (abc 1).NMAX - 9 ∧ 55 < 2 ^ 61 := by decide

/-- HashProgramReturnsSha256: the empty message on the smallest machine, at the shortest pace, with every turn of the run
before one poll and with one turn before each poll. -/
theorem witness_hash_program :
    Config.LegalCapacity (abc 1).NMAX ∧ (abc 1).PHASE = .idle ∧ ([] : List Byte).length < 2 ^ 61 ∧
    ([] : List Byte).length ≤ 64 * (abc 1).NMAX - 9 ∧ [0, 0].length = ([] : List Byte).length + 2 ∧
    runSteps (nblocks ([] : List Byte).length) ≤ [215].sum ∧
    runSteps (nblocks ([] : List Byte).length) ≤ (List.replicate 215 1).sum ∧ 9 ≤ (List.replicate 9 0).length :=
  ⟨by decide, rfl, by decide, by decide, rfl, by decide, by rw [List.sum_replicate]; decide, by decide⟩

/-! ### Host programs (30_encoding R100) -/

theorem test_hash_program :
    hashProgram [0x61] = [.access (.wmsg 0 0x61), .access (.wreg 2 1), .access .start, .wait, .access (.rreg 1),
      .access (.rreg 8), .access (.rreg 9), .access (.rreg 10), .access (.rreg 11), .access (.rreg 12),
      .access (.rreg 13), .access (.rreg 14), .access (.rreg 15)] := by decide

/-- A poll while BUSY goes on waiting, one when the run is over (here with AllocationFailure, 95 section 8) does not. -/
theorem test_wait :
    after (runProgram [0] [.wait] { started 1 56 with PHASE := .psize }) (fun r => (r.1.returned, r.2)) =
      some ([.word 0x00000001], [.wait]) ∧
    after (runProgram [1] [.wait] { started 1 56 with PHASE := .psize }) (fun r => (r.1.returned, r.2)) =
      some ([.word 0x0000000c], []) := by decide

end Sys2Proof.Tests
end

/-! Proofs about the word operations (00_scope R8, R9). -/

namespace Sys2Proof.Laws

open Sys2Proof.Machine

/-- 00_scope R9: SHR is `floor(x / 2^n)`. -/
@[simp] theorem toNat_SHR (x : Word) (n : Nat) : (SHR x n).toNat = x.toNat / 2 ^ n := by
  rw [SHR, BitVec.toNat_ushiftRight, Nat.shiftRight_eq_div_pow]

/-- The bits that leave `x` on the right come back on the left: modulo 2^32, only the low `n` bits of `x` are left of
`x · 2^(32−n)`. -/
theorem mul_two_pow_mod_word (x n : Nat) (hn : n ≤ 32) :
    x * 2 ^ (32 - n) % 2 ^ 32 = 2 ^ (32 - n) * (x % 2 ^ n) := by
  have split : 2 ^ 32 = 2 ^ (32 - n) * 2 ^ n := by rw [← pow_add, Nat.sub_add_cancel hn]
  rw [split, Nat.mul_comm x, Nat.mul_mod_mul_left]

/-- The bits that stay in `x` fit below the ones that come back. -/
theorem div_two_pow_lt (x : Word) (n : Nat) (hn : n ≤ 32) : x.toNat / 2 ^ n < 2 ^ (32 - n) := by
  rw [← toNat_SHR]
  exact BitVec.toNat_ushiftRight_lt x n hn

/-- 00_scope R9: ROTR as a number. The two shifted parts of the rotation share no bit, so their OR is their sum, and
that sum is below 2^32. -/
theorem toNat_ROTR (x : Word) (n : Nat) (hn : n < 32) :
    (ROTR x n).toNat = (x.toNat / 2 ^ n + x.toNat * 2 ^ (32 - n)) % 2 ^ 32 := by
  have low := div_two_pow_lt x n hn.le
  have high := mul_two_pow_mod_word x.toNat n hn.le
  have or_eq_sum : (ROTR x n).toNat = x.toNat / 2 ^ n + x.toNat * 2 ^ (32 - n) % 2 ^ 32 := by
    rw [ROTR, BitVec.toNat_rotateRight, Nat.mod_eq_of_lt hn, Nat.shiftRight_eq_div_pow, Nat.shiftLeft_eq, high,
      Nat.or_comm, ← Nat.two_pow_add_eq_or_of_lt low, Nat.add_comm]
  calc (ROTR x n).toNat
      = (ROTR x n).toNat % 2 ^ 32 := (Nat.mod_eq_of_lt (ROTR x n).isLt).symm
    _ = (x.toNat / 2 ^ n + x.toNat * 2 ^ (32 - n)) % 2 ^ 32 := by rw [or_eq_sum, Nat.add_mod_mod]

/-- 00_scope R9: "bit i of the result is bit (i+n) mod 32 of x". -/
theorem getLsbD_ROTR (x : Word) (n i : Nat) (hn : n < 32) (hi : i < 32) :
    (ROTR x n).getLsbD i = x.getLsbD ((i + n) % 32) := by
  rw [ROTR, BitVec.getLsbD_rotateRight_of_lt hn]
  by_cases stays : i < 32 - n
  · have index : (i + n) % 32 = n + i := by omega
    simp [stays, index]
  · have index : (i + n) % 32 = i - (32 - n) := by omega
    simp [stays, hi, index]

/-- Settles O42: one lemma for each operation, and one for the bits of ROTR. -/
theorem wordOperations : Obligations.WordOperations := by
  unfold Obligations.WordOperations
  intro x y n _ hn
  exact ⟨toNat_SHR x n, toNat_ROTR x n hn, fun i hi => getLsbD_ROTR x n i hn hi, BitVec.toNat_add x y⟩

end Sys2Proof.Laws

/-! Proofs about the state of the engine (10_state): the STATUS word, the views the proofs compare states by, and the
values at reset. -/

namespace Sys2Proof.Laws

open Sys2Proof.Machine Sys2Proof.Safety

variable {s t : State}

/-! ### The STATUS word -/

/-- 10_state R29: bit 0 is BUSY. -/
@[simp] theorem status_bit_busy (s : State) : s.status.getLsbD 0 = decide (s.PHASE ≠ .idle) := by
  simp only [State.status, flagBit, BitVec.getLsbD_append, State.busy]
  simp

/-- 10_state R29: bit 1 is DONE. -/
@[simp] theorem status_bit_done (s : State) : s.status.getLsbD 1 = s.DONE := by
  simp only [State.status, flagBit, BitVec.getLsbD_append]
  simp

/-- 10_state R29: bit 2 is ERROR. -/
@[simp] theorem status_bit_error (s : State) : s.status.getLsbD 2 = s.ERROR := by
  simp only [State.status, flagBit, BitVec.getLsbD_append]
  simp

/-- The bits of STATUS above the three flags are those of the part above them. -/
theorem status_above_flags (s : State) (start len : Nat) :
    s.status.extractLsb' (start + 3) len = ((0 : BitVec 27) ++ s.ERRCODE).extractLsb' start len := by
  rw [State.status, BitVec.extractLsb'_append_eq_of_le (by omega), BitVec.extractLsb'_append_eq_of_le (by omega),
    BitVec.extractLsb'_append_eq_of_le (by omega)]
  rfl

/-- 10_state R29: bits 4:3 are ERRCODE. -/
@[simp] theorem status_errcode (s : State) : s.status.extractLsb' 3 2 = s.ERRCODE := by
  rw [status_above_flags s 0, BitVec.extractLsb'_append_eq_right]

/-- 10_state R29: bits 31:5 are zero. -/
@[simp] theorem status_high (s : State) : s.status.extractLsb' 5 27 = 0 := by
  rw [status_above_flags s 2, BitVec.extractLsb'_append_eq_left]

/-- Settles O14: one lemma for each part of the word; register 1 always has a value, and no write reaches it. -/
theorem statusWordLayout : Obligations.StatusWordLayout := by
  unfold Obligations.StatusWordLayout
  intro s
  exact ⟨status_bit_busy s, status_bit_done s, status_bit_error s, status_errcode s, status_high s, rfl, fun _ => rfl⟩

/-! ### The flags -/

/-- The flags of 10_state R35 and the digest of R24, which are written together. -/
def flags (s : State) : Bool × Bool × BitVec 2 × Option (Vector Word 8) := (s.DONE, s.ERROR, s.ERRCODE, s.D)

/-- The flags while a run goes on, from START to its end. -/
def runningFlags : Bool × Bool × BitVec 2 × Option (Vector Word 8) := (false, false, 0, none)

theorem flags_eq_running : flags s = runningFlags ↔
    s.DONE = false ∧ s.ERROR = false ∧ s.ERRCODE = 0 ∧ s.D = none := by
  simp [flags, runningFlags]

/-- 10_state R35: while BUSY no flag is set and D is invalid. -/
theorem flags_of_busy (h : FlagsInv s) (busy : s.PHASE ≠ .idle) : flags s = runningFlags := by
  have going : ¬ (s.DONE = true ∨ s.ERROR = true) := fun ended => busy (by simpa using h.ended ended)
  obtain ⟨done, error⟩ := not_or.1 going
  exact flags_eq_running.2 ⟨by simpa using done, by simpa using error,
    not_not.1 fun code => error (h.errcode.1 code), by simpa [done] using h.digestValid⟩

/-- The flags of a run meet their invariants. -/
theorem flagsInv_of_running (h : flags s = runningFlags) : FlagsInv s := by
  obtain ⟨done, error, errcode, digest⟩ := flags_eq_running.1 h
  constructor <;> simp [done, error, errcode, digest]

/-- 60_exceptions R215: error entry out of a run meets the invariants of the flags. -/
theorem flagsInv_raise (h : flags s = runningFlags) (e : EngineError) : FlagsInv (s.raise e) := by
  obtain ⟨done, error, errcode, digest⟩ := flags_eq_running.1 h
  have code : e.code ≠ 0#2 := by cases e <;> decide
  constructor <;> simp [done, digest, code]

/-- 10_state R35 for the error codes: ERRCODE names an error exactly while ERROR = 1, so an idle STATUS without DONE is
one of four words. -/
theorem status_word_cases : ∀ (errcode : BitVec 2) (error : Bool), (errcode ≠ 0 ↔ error = true) →
    let word : Word := (0 : BitVec 27) ++ errcode ++ flagBit error ++ flagBit false ++ flagBit false
    word = 0x00000000 ∨ word = 0x0000000c ∨ word = 0x00000014 ∨ word = 0x0000001c := by
  decide

/-- Settles O12: while BUSY no flag is set, with DONE = 1 there is no error, and otherwise only ERRCODE is free. -/
theorem statusHasSixValues : Obligations.StatusHasSixValues := by
  unfold Obligations.StatusHasSixValues
  intro s inv
  refine ⟨fun busy => ?_, fun idle done => ?_, fun idle done => ?_⟩
  · obtain ⟨done, error, errcode, -⟩ := flags_eq_running.1 (flags_of_busy inv.flags busy)
    have bit : s.busy = true := by simpa using busy
    rw [State.status, done, error, errcode, bit]
    decide
  · have error : s.ERROR = false := by simpa [done] using inv.flags.exclusive
    have errcode : s.ERRCODE = 0 := by simpa [error] using inv.flags.errcode
    have bit : s.busy = false := by simpa using idle
    rw [State.status, done, error, errcode, bit]
    decide
  · have bit : s.busy = false := by simpa using idle
    rw [State.status, done, bit]
    exact status_word_cases s.ERRCODE s.ERROR inv.flags.errcode

/-! ### Reset -/

/-- Settles O6: the fields of State.reset, and storage that lists nothing. -/
theorem resetStateValues : Obligations.ResetStateValues := by
  unfold Obligations.ResetStateValues
  exact ⟨rfl, rfl, rfl, rfl, rfl, rfl, find_nil, find_nil, find_nil⟩

end Sys2Proof.Laws

/-! Proofs about the control invariant (10_state R26, R35): what each of its parts rests on, and that every turn keeps
it. -/

namespace Sys2Proof.Laws

open Sys2Proof.Machine Sys2Proof.Safety

variable {s t : State}

/-! ### The length functions -/

/-- 40_padder R111: the padded length is that of whole blocks. -/
theorem padlen_eq (n : Nat) : padlen n = 64 * nblocks n := by
  simp only [nblocks, padlen, zpad, kpad]
  omega

theorem kpad_lt (n : Nat) : kpad n < 512 := by
  rw [kpad]
  omega

theorem nblocks_pos (n : Nat) : 1 ≤ nblocks n := by
  simp only [nblocks, padlen, zpad, kpad]
  omega

/-- 40_padder R111: no block count is beyond the largest capacity of 00_scope R7. -/
theorem nblocks_le {n : Nat} (h : n < 2 ^ 61) : nblocks n ≤ 2 ^ 55 + 1 := by
  simp only [nblocks, padlen, zpad, kpad]
  omega

/-- A counter below a value its register can hold is not at its largest value, so its increment is exact (00_scope
R10). -/
theorem toNat_add_one {w : Nat} {x : BitVec w} {bound : Nat} (h : x.toNat < bound) (fits : bound < 2 ^ w) :
    (x + 1).toNat = x.toNat + 1 := by
  have one : (1 : BitVec w).toNat = 1 := by
    have : 1 < 2 ^ w := by omega
    simpa using Nat.mod_eq_of_lt this
  rw [BitVec.toNat_add_of_lt (by omega), one]

/-- An increment that may wrap gives no more than the exact one. -/
theorem toNat_add_one_le {w : Nat} (x : BitVec w) : (x + 1).toNat ≤ x.toNat + 1 := by
  have one : (1 : BitVec w).toNat ≤ 1 := by simpa using Nat.mod_le 1 (2 ^ w)
  calc (x + 1).toNat
      = (x.toNat + (1 : BitVec w).toNat) % 2 ^ w := BitVec.toNat_add x 1
    _ ≤ x.toNat + (1 : BitVec w).toNat := Nat.mod_le _ _
    _ ≤ x.toNat + 1 := Nat.add_le_add_left one _

/-! ### The model's own fields -/

/-- Other turns to come, other answers given and another free counter: the fields of the state that are not the
engine's (logs 4, 5, 7). -/
def withOwn (s : State) (script : List Turn) (returned : List ReadValue) (freeCount : Nat) : State :=
  { s with script := script, returned := returned, freeCount := freeCount }

/-- What sizes a run has (40_padder R115), with what they are computed from. -/
def sizes (s : State) : DWord × DWord × BitVec 10 × DWord × DWord × Nat :=
  (s.LEN, s.L, s.KPAD, s.PLEN, s.N, s.NMAX)

theorem sized_congr (hs : Sized s) (h : sizes t = sizes s) : Sized t := by
  simp only [sizes, Prod.mk.injEq] at h
  obtain ⟨len, l, kp, plen, n, nmax⟩ := h
  exact ⟨len ▸ hs.lenOk, by rw [l, len, hs.bits], by rw [kp, len, hs.zeros], by rw [plen, len, hs.padded],
    by rw [n, len, hs.blocks], by rw [n, nmax]; exact hs.capacity⟩

/-- The storage of a state, with its capacity and the turns to come, which no operation changes. -/
def storage (s : State) : List Host.Cell × List Host.Cell × List (Nat × Word) × Nat × List Turn :=
  (s.MSG, s.PBUF, s.WBUF, s.NMAX, s.script)

theorem memoryInv_congr (hs : MemoryInv s) (h : storage t = storage s) : MemoryInv t := by
  simp only [storage, Prod.mk.injEq] at h
  obtain ⟨msg, pbuf, wbuf, nmax, -⟩ := h
  obtain ⟨h1, h2, h3, h4, h5, h6⟩ := hs
  constructor <;> simpa only [msg, pbuf, wbuf, nmax]

/-! ### Where each phase finds the counters -/

/-- The counter invariant of the model read phase by phase: what the operation of a phase finds. -/
def CounterAt (s : State) : Phase → Prop
  | .idle => True
  | .lchk => True
  | .psize => s.LEN.toNat < 2 ^ 61
  | .padb => Sized s ∧ s.J.toNat < s.PLEN.toNat
  | .pchk => Sized s ∧ s.J.toNat = s.PLEN.toNat
  | .parsew => Sized s ∧ s.J.toNat < 16 * s.N.toNat
  | .hinit => Sized s ∧ s.J.toNat = 16 * s.N.toNat
  | .sched => Sized s ∧ s.I.toNat < s.N.toNat ∧ s.T.toNat < 64
  | .vars => Sized s ∧ s.I.toNat < s.N.toNat ∧ s.T.toNat = 64
  | .round => Sized s ∧ s.I.toNat < s.N.toNat ∧ s.T.toNat < 64
  | .chain => Sized s ∧ s.I.toNat < s.N.toNat ∧ s.T.toNat = 64
  | .finish => Sized s ∧ s.I.toNat = s.N.toNat

/-- The phase-by-phase reading is the model's counter invariant. -/
theorem counterInv_iff : CounterInv s ↔ CounterAt s s.PHASE := by
  constructor
  · intro h
    obtain ⟨checked, sized, padding, padEnd, parsing, parseEnd, block, lastBlock, index, indexEnd⟩ := h
    cases hp : s.PHASE <;> simp_all [CounterAt]
  · intro h
    have sized : s.PHASE ∉ [Phase.idle, .lchk, .psize] → Sized s := by
      cases hp : s.PHASE <;> simp_all [CounterAt]
    have checked : s.PHASE ∉ [Phase.idle, .lchk] → s.LEN.toNat < 2 ^ 61 := by
      by_cases hp : s.PHASE = .psize
      · rw [hp] at h
        exact fun _ => h
      · exact fun later => (sized (by simp_all)).lenOk
    refine ⟨checked, sized, ?_, ?_, ?_, ?_, ?_, ?_, ?_, ?_⟩ <;> cases hp : s.PHASE <;> simp_all [CounterAt]

/-- LCHK leaves a length that fits (43_host_interface R186). -/
theorem counterAt_lchk (next : execLchk s = .next t) : CounterAt t t.PHASE := by
  obtain ⟨-, run⟩ | ⟨fits, run⟩ := execLchk_cases (s := s)
  · cases run.symm.trans next
    trivial
  · cases run.symm.trans next
    exact fits

/-- PSIZE stores exact sizes: none of them wraps (40_padder R111, R115). -/
theorem counterAt_psize (fits : s.LEN.toNat < 2 ^ 61) (next : execPsize s = .next t) : CounterAt t t.PHASE := by
  obtain ⟨-, run⟩ | ⟨capacity, run⟩ := execPsize_cases (s := s)
  · cases run.symm.trans next
    trivial
  · cases run.symm.trans next
    have blocks := nblocks_le fits
    have positive := nblocks_pos s.LEN.toNat
    have length := padlen_eq s.LEN.toNat
    have zeros := kpad_lt s.LEN.toNat
    have storedPlen : (BitVec.ofNat 64 (padlen s.LEN.toNat)).toNat = padlen s.LEN.toNat :=
      Nat.mod_eq_of_lt (by omega)
    have storedN : (BitVec.ofNat 64 (nblocks s.LEN.toNat)).toNat = nblocks s.LEN.toNat :=
      Nat.mod_eq_of_lt (by omega)
    refine ⟨⟨fits, Nat.mod_eq_of_lt ?_, Nat.mod_eq_of_lt (zeros.trans (by decide)), storedPlen, storedN, ?_⟩, ?_⟩
    · rw [bitlen]; omega
    · exact storedN.trans_le capacity
    · show 0 < (BitVec.ofNat 64 (padlen s.LEN.toNat)).toNat
      omega

/-- PADB walks J from 0 to PLEN (40_padder R116). -/
theorem counterAt_padb (phase : s.PHASE = .padb) (sized : Sized s) (padding : s.J.toNat < s.PLEN.toNat)
    (next : execPadb s = .next t) : CounterAt t t.PHASE := by
  obtain ⟨-, -, rfl⟩ := execPadb_next.1 next
  have count := toNat_add_one padding s.PLEN.isLt
  by_cases last : s.J.toNat + 1 = s.PLEN.toNat
  · simp only [if_pos last]
    exact ⟨sized_congr sized rfl, count.trans last⟩
  · simp only [if_neg last, phase]
    exact ⟨sized_congr sized rfl, by simp only [count]; omega⟩

/-- PCHK starts the walk of the Block Parser at J = 0 (41_block_parser R132). -/
theorem counterAt_pchk (sized : Sized s) (next : execPchk s = .next t) : CounterAt t t.PHASE := by
  obtain ⟨-, run⟩ | ⟨-, -, run⟩ := execPchk_cases (s := s)
  · cases run.symm.trans next
    trivial
  · cases run.symm.trans next
    have := nblocks_pos s.LEN.toNat
    refine ⟨sized_congr sized rfl, ?_⟩
    show 0 < 16 * s.N.toNat
    rw [sized.blocks]
    omega

/-- PARSEW walks J from 0 to 16·N (41_block_parser R133). -/
theorem counterAt_parsew (phase : s.PHASE = .parsew) (sized : Sized s) (parsing : s.J.toNat < 16 * s.N.toNat)
    (next : execParsew s = .next t) : CounterAt t t.PHASE := by
  obtain ⟨-, -, rfl⟩ := execParsew_next.1 next
  have words : 16 * s.N.toNat < 2 ^ 64 := by
    have := nblocks_le sized.lenOk
    rw [sized.blocks]
    omega
  have count := toNat_add_one parsing words
  by_cases last : s.J.toNat + 1 = 16 * s.N.toNat
  · simp only [if_pos last]
    exact ⟨sized_congr sized rfl, count.trans last⟩
  · simp only [if_neg last, phase]
    exact ⟨sized_congr sized rfl, by simp only [count]; omega⟩

/-- HINIT starts at block 0 and word 0 (42_compressor R144). -/
theorem counterAt_hinit (sized : Sized s) (next : execHinit s = .next t) : CounterAt t t.PHASE := by
  cases next
  have := nblocks_pos s.LEN.toNat
  refine ⟨sized_congr sized rfl, ?_, Nat.succ_pos 63⟩
  show 0 < s.N.toNat
  rw [sized.blocks]
  omega

/-- SCHED walks T from 0 to 64 (42_compressor R145). -/
theorem counterAt_sched (phase : s.PHASE = .sched) (sized : Sized s) (block : s.I.toNat < s.N.toNat)
    (next : execSched s = .next t) : CounterAt t t.PHASE := by
  obtain ⟨index, -, rfl⟩ := execSched_next.1 next
  have count := toNat_add_one index (by decide)
  by_cases last : s.T.toNat + 1 = 64
  · simp only [if_pos last]
    exact ⟨sized_congr sized rfl, block, count.trans last⟩
  · simp only [if_neg last, phase]
    exact ⟨sized_congr sized rfl, block, by simp only [count]; omega⟩

/-- ROUND walks T from 0 to 64 (42_compressor R147). -/
theorem counterAt_round (phase : s.PHASE = .round) (sized : Sized s) (block : s.I.toNat < s.N.toNat)
    (next : execRound s = .next t) : CounterAt t t.PHASE := by
  obtain ⟨index, rfl⟩ := execRound_next.1 next
  have count := toNat_add_one index (by decide)
  by_cases last : s.T.toNat + 1 = 64
  · simp only [if_pos last]
    exact ⟨sized_congr sized rfl, block, count.trans last⟩
  · simp only [if_neg last, phase]
    exact ⟨sized_congr sized rfl, block, by simp only [count]; omega⟩

/-- CHAIN walks I from 0 to N (42_compressor R148). -/
theorem counterAt_chain (sized : Sized s) (block : s.I.toNat < s.N.toNat) (next : execChain s = .next t) :
    CounterAt t t.PHASE := by
  cases next
  have count := toNat_add_one block s.N.isLt
  by_cases more : s.I.toNat + 1 < s.N.toNat
  · simp only [if_pos more]
    exact ⟨sized_congr sized rfl, count.trans_lt more, Nat.succ_pos 63⟩
  · simp only [if_neg more]
    exact ⟨sized_congr sized rfl, count.trans (Nat.le_antisymm block (not_lt.1 more))⟩

/-- Every operation of the engine leaves the counters where the next phase expects them. -/
theorem counterInv_operation {i : Instr} (h : CounterInv s) (selected : s.PHASE.operation = some i)
    (next : exec i s = .next t) : CounterInv t := by
  rw [counterInv_iff] at h ⊢
  cases phase : s.PHASE <;> rw [phase] at h selected <;> cases selected
  case lchk => exact counterAt_lchk next
  case psize => exact counterAt_psize h next
  case padb => exact counterAt_padb phase h.1 h.2 next
  case pchk => exact counterAt_pchk h.1 next
  case parsew => exact counterAt_parsew phase h.1 h.2 next
  case hinit => exact counterAt_hinit h.1 next
  case sched => exact counterAt_sched phase h.1 h.2.1 next
  case vars =>
    cases next
    exact ⟨sized_congr h.1 rfl, h.2.1, Nat.succ_pos 63⟩
  case round => exact counterAt_round phase h.1 h.2.1 next
  case chain => exact counterAt_chain h.1 h.2.1 next
  case finish =>
    cases next
    trivial

/-! ### What an operation does to flags and storage -/

/-- The three operations that check something raise an error, or leave flags and storage alone (60_exceptions R215). -/
theorem check_cases {i : Instr} (check : i ∈ [Instr.lchk, .psize, .pchk]) (next : exec i s = .next t) :
    (∃ e, t = s.raise e) ∨ (flags t = flags s ∧ storage t = storage s) := by
  simp only [List.mem_cons, List.not_mem_nil, or_false] at check
  obtain rfl | rfl | rfl := check
  · obtain ⟨-, run⟩ | ⟨-, run⟩ := execLchk_cases (s := s) <;> cases run.symm.trans next
    · exact .inl ⟨_, rfl⟩
    · exact .inr ⟨rfl, rfl⟩
  · obtain ⟨-, run⟩ | ⟨-, run⟩ := execPsize_cases (s := s) <;> cases run.symm.trans next
    · exact .inl ⟨_, rfl⟩
    · exact .inr ⟨rfl, rfl⟩
  · obtain ⟨-, run⟩ | ⟨-, -, run⟩ := execPchk_cases (s := s) <;> cases run.symm.trans next
    · exact .inl ⟨_, rfl⟩
    · exact .inr ⟨rfl, rfl⟩

/-- Every instruction but START, FINISH and the three checks leaves the flags alone (10_state R35). The WREG that is
START is no well-formed spelling. -/
theorem flags_exec {i : Instr} (wf : i.WellFormed) (other : i ∉ [Instr.start, .finish, .lchk, .psize, .pchk])
    (next : exec i s = .next t) : flags t = flags s := by
  cases i
  case rreg n =>
    obtain ⟨_, -, run⟩ | ⟨-, run⟩ := execRreg_cases (s := s) n <;> cases run.symm.trans next <;> rfl
  case wreg n v =>
    obtain ⟨cmd, one, -⟩ | ⟨-, -, run⟩ | run := execWreg_cases (s := s) n v
    · exact absurd ⟨cmd, one⟩ wf
    · cases run.symm.trans next; rfl
    · cases run.symm.trans next; rfl
  case rmsg j =>
    obtain ⟨-, run⟩ | ⟨-, run⟩ := execRmsg_cases (s := s) j <;> cases run.symm.trans next <;> rfl
  case wmsg j b =>
    obtain ⟨-, -, run⟩ | ⟨-, run⟩ := execWmsg_cases (s := s) j b <;> cases run.symm.trans next <;> rfl
  case padb => obtain ⟨-, -, rfl⟩ := execPadb_next.1 next; rfl
  case parsew => obtain ⟨-, -, rfl⟩ := execParsew_next.1 next; rfl
  case sched => obtain ⟨-, -, rfl⟩ := execSched_next.1 next; rfl
  case round => obtain ⟨-, rfl⟩ := execRound_next.1 next; rfl
  case hinit | vars | chain => cases next; rfl
  all_goals exact absurd (by simp) other

/-- Settles O36: START, FINISH and the checks aside, the flags stay; a check does not write DONE, and FINISH writes
neither ERROR nor ERRCODE. -/
theorem flagsChangeOnlyWhereTheTableSays : Obligations.FlagsChangeOnlyWhereTheTableSays := by
  unfold Obligations.FlagsChangeOnlyWhereTheTableSays
  intro i s t wf next
  by_cases check : i ∈ [Instr.lchk, .psize, .pchk]
  · have done : t.DONE = s.DONE := by
      obtain ⟨_, rfl⟩ | ⟨same, -⟩ := check_cases check next
      · rfl
      · exact congrArg Prod.fst same
    exact ⟨fun changed => absurd done changed, fun _ => by simpa using Or.inr check⟩
  · by_cases writer : i = .start ∨ i = .finish
    · refine ⟨fun _ => writer, fun changed => ?_⟩
      obtain rfl | rfl := writer
      · exact .inl rfl
      · cases next
        simp at changed
    · have same : flags t = flags s := flags_exec wf (by simp_all) next
      simp only [flags, Prod.mk.injEq] at same
      obtain ⟨done, error, errcode, -⟩ := same
      exact ⟨fun changed => absurd done changed, fun changed => absurd errcode (by simpa [error] using changed)⟩

/-- Settles O37: FINISH and START aside, D stays, also where a check raises an error; and START while BUSY does
nothing. -/
theorem digestIsStable : Obligations.DigestIsStable := by
  unfold Obligations.DigestIsStable
  intro i s t wf next changed
  by_cases check : i ∈ [Instr.lchk, .psize, .pchk]
  · obtain ⟨_, rfl⟩ | ⟨same, -⟩ := check_cases check next
    · exact absurd rfl changed
    · exact absurd (congrArg (·.2.2.2) same) changed
  · by_cases start : i = .start
    · subst start
      cases next
      obtain ⟨idle, -⟩ | ⟨-, stays⟩ := startCall_cases (s := s)
      · exact .inr ⟨rfl, idle⟩
      · exact absurd (congrArg State.D stays) changed
    · by_contra other
      have same : flags t = flags s := flags_exec wf (by simp_all) next
      exact changed (congrArg (·.2.2.2) same)

/-- The six operations of the Compressor store nothing in MSG, PBUF and WBUF (42_compressor R151). -/
theorem storage_compressor {i : Instr} (own : i ∈ [Instr.hinit, .sched, .vars, .round, .chain, .finish])
    (next : exec i s = .next t) : storage t = storage s := by
  simp only [List.mem_cons, List.not_mem_nil, or_false] at own
  obtain rfl | rfl | rfl | rfl | rfl | rfl := own
  case inr.inl => obtain ⟨-, -, rfl⟩ := execSched_next.1 next; rfl
  case inr.inr.inr.inl => obtain ⟨-, rfl⟩ := execRound_next.1 next; rfl
  all_goals cases next; rfl

/-- What the engine stores: PADB one byte of PBUF, PARSEW one word of WBUF, each at an index that exists. -/
theorem storage_operation {i : Instr} (selected : s.PHASE.operation = some i) (next : exec i s = .next t) :
    storage t = storage s ∨
    (∃ j b, j < 64 * s.NMAX ∧ storage t = storage { s with PBUF := Memory.write s.PBUF j b }) ∨
    (∃ j w, j < 16 * s.NMAX ∧ storage t = storage { s with WBUF := Memory.write s.WBUF j w }) := by
  cases phase : s.PHASE <;> rw [phase] at selected <;> cases selected
  case lchk | psize | pchk =>
    obtain ⟨_, rfl⟩ | ⟨-, same⟩ := check_cases (by simp) next
    · exact .inl rfl
    · exact .inl same
  case padb =>
    obtain ⟨index, -, rfl⟩ := execPadb_next.1 next
    exact .inr (.inl ⟨_, _, index, rfl⟩)
  case parsew =>
    obtain ⟨-, index, rfl⟩ := execParsew_next.1 next
    exact .inr (.inr ⟨_, _, index, rfl⟩)
  all_goals exact .inl (storage_compressor (by simp) next)

/-! ### The parts of the control invariant -/

/-- A store to an index of MSG keeps storage canonical. -/
theorem memoryInv_write_msg (inv : MemoryInv s) {j : Nat} (index : j < 64 * s.NMAX - 9) (b : Byte) :
    MemoryInv { s with MSG := Memory.write s.MSG j b } :=
  { inv with msgForm := wf_write _ _ _ inv.msgForm, msgBelow := below_write _ _ _ _ index inv.msgBelow }

/-- A store to an index of PBUF keeps storage canonical. -/
theorem memoryInv_write_pbuf (inv : MemoryInv s) {j : Nat} (index : j < 64 * s.NMAX) (b : Byte) :
    MemoryInv { s with PBUF := Memory.write s.PBUF j b } :=
  { inv with pbufForm := wf_write _ _ _ inv.pbufForm, pbufBelow := below_write _ _ _ _ index inv.pbufBelow }

/-- A store to an index of WBUF keeps storage canonical. -/
theorem memoryInv_write_wbuf (inv : MemoryInv s) {j : Nat} (index : j < 16 * s.NMAX) (w : Word) :
    MemoryInv { s with WBUF := Memory.write s.WBUF j w } :=
  { inv with wbufForm := wf_write _ _ _ inv.wbufForm, wbufBelow := below_write _ _ _ _ index inv.wbufBelow }

/-- Every operation of the engine keeps storage canonical. -/
theorem memoryInv_operation {i : Instr} (inv : MemoryInv s) (selected : s.PHASE.operation = some i)
    (next : exec i s = .next t) : MemoryInv t := by
  obtain same | ⟨j, b, index, same⟩ | ⟨j, w, index, same⟩ := storage_operation selected next
  · exact memoryInv_congr inv same
  · exact memoryInv_congr (memoryInv_write_pbuf inv index b) same
  · exact memoryInv_congr (memoryInv_write_wbuf inv index w) same

/-- No operation of the engine changes the capacity. -/
theorem NMAX_operation {i : Instr} (selected : s.PHASE.operation = some i) (next : exec i s = .next t) :
    t.NMAX = s.NMAX := by
  obtain same | ⟨j, b, -, same⟩ | ⟨j, w, -, same⟩ := storage_operation selected next <;>
    exact congrArg (·.2.2.2.1) same

/-- No operation of the engine changes the turns to come. -/
theorem script_operation {i : Instr} (selected : s.PHASE.operation = some i) (next : exec i s = .next t) :
    t.script = s.script := by
  obtain same | ⟨j, b, -, same⟩ | ⟨j, w, -, same⟩ := storage_operation selected next <;>
    exact congrArg (·.2.2.2.2) same

/-- 42_compressor R155: FINISH ends a run with sizes that fit, so DONE = 1 comes with results in range. -/
theorem flagsInv_finish (running : flags s = runningFlags) (sized : Sized s) (next : execFinish s = .next t) :
    FlagsInv t := by
  cases next
  obtain ⟨-, error, errcode, -⟩ := flags_eq_running.1 running
  have positive : 1 ≤ s.N.toNat := sized.blocks ▸ nblocks_pos _
  have length : s.PLEN.toNat = 64 * s.N.toNat := by rw [sized.padded, sized.blocks, padlen_eq]
  constructor
  case results => exact fun _ => ⟨positive, sized.capacity, length⟩
  all_goals simp [error, errcode]

/-- Every operation of the engine keeps the invariants of the flags. -/
theorem flagsInv_operation {i : Instr} (inv : FlagsInv s) (counters : CounterInv s)
    (selected : s.PHASE.operation = some i) (next : exec i s = .next t) : FlagsInv t := by
  have running : flags s = runningFlags := flags_of_busy inv fun idle => by simp [idle, Phase.operation] at selected
  cases phase : s.PHASE <;> rw [phase] at selected <;> cases selected
  case lchk | psize | pchk =>
    obtain ⟨e, rfl⟩ | ⟨same, -⟩ := check_cases (by simp) next
    · exact flagsInv_raise running e
    · exact flagsInv_of_running (same.trans running)
  case finish => exact flagsInv_finish running (counters.sized (by simp [phase])) next
  all_goals exact flagsInv_of_running ((flags_exec trivial (by simp) next).trans running)

/-- Every operation of the engine keeps the control invariant. -/
theorem controlInv_operation {i : Instr} (inv : ControlInv s) (selected : s.PHASE.operation = some i)
    (next : exec i s = .next t) : ControlInv t where
  capacity := NMAX_operation selected next ▸ inv.capacity
  memory := memoryInv_operation inv.memory selected next
  flags := flagsInv_operation inv.flags inv.counters selected next
  counters := counterInv_operation inv.counters selected next

/-! ### Host accesses -/

/-- What a host access can do (43_host_interface R181 to R185): answer, or change nothing; and while idle set LEN, store
a byte of MSG, or start a run. -/
inductive HostEffect (s : State) : State → Prop
  | answers (returned : List ReadValue) (freeCount : Nat) : HostEffect s (withOwn s s.script returned freeCount)
  | setLen (idle : s.PHASE = .idle) (v : DWord) : HostEffect s { s with LEN := v }
  | setMsg (idle : s.PHASE = .idle) (j : Nat) (index : j < 64 * s.NMAX - 9) (b : Byte) :
      HostEffect s { s with MSG := Memory.write s.MSG j b }
  | start (idle : s.PHASE = .idle) :
      HostEffect s { s with DONE := false, ERROR := false, ERRCODE := 0, D := none, PHASE := .lchk }

/-- An access that changes nothing. -/
theorem HostEffect.refl (s : State) : HostEffect s s := .answers s.returned s.freeCount

/-- START while idle starts, and while BUSY changes nothing. -/
theorem hostEffect_startCall (s : State) : HostEffect s s.startCall := by
  obtain ⟨idle, call⟩ | ⟨-, call⟩ := startCall_cases (s := s) <;> rw [call]
  · exact .start idle
  · exact .refl s

/-- The access of every descriptor has one of these effects. -/
theorem hostEffect_of_exec {d : BitVec 130} (next : exec (decodeHost d) s = .next t) : HostEffect s t := by
  obtain ⟨n, access⟩ | ⟨n, v, access⟩ | ⟨j, access⟩ | ⟨j, b, access⟩ | access := decodeHost_cases d <;>
    rw [access] at next
  · obtain ⟨_, -, run⟩ | ⟨-, run⟩ := execRreg_cases (s := s) n <;> cases run.symm.trans next
    · exact .answers _ _
    · exact .answers _ _
  · obtain ⟨-, -, run⟩ | ⟨-, idle, run⟩ | run := execWreg_cases (s := s) n v <;> cases run.symm.trans next
    · exact hostEffect_startCall s
    · exact .setLen idle v
    · exact .refl s
  · obtain ⟨-, run⟩ | ⟨-, run⟩ := execRmsg_cases (s := s) j <;> cases run.symm.trans next
    · exact .answers _ _
    · exact .answers _ _
  · obtain ⟨idle, index, run⟩ | ⟨-, run⟩ := execWmsg_cases (s := s) j b <;> cases run.symm.trans next
    · exact .setMsg idle _ index b
    · exact .refl s
  · cases next
    exact hostEffect_startCall s

/-- While idle the counters may be anywhere. -/
theorem counterInv_of_idle (idle : s.PHASE = .idle) : CounterInv s := by
  rw [counterInv_iff, idle]
  trivial

theorem counterInv_withOwn (inv : CounterInv s) (script : List Turn) (returned : List ReadValue) (freeCount : Nat) :
    CounterInv (withOwn s script returned freeCount) :=
  { inv with sized := fun later => sized_congr (inv.sized later) rfl }

/-- The control invariant does not speak of the model's own fields. -/
theorem controlInv_withOwn (inv : ControlInv s) (script : List Turn) (returned : List ReadValue) (freeCount : Nat) :
    ControlInv (withOwn s script returned freeCount) where
  capacity := inv.capacity
  memory := { inv.memory with }
  flags := { inv.flags with }
  counters := counterInv_withOwn inv.counters script returned freeCount

/-- Every host access keeps the control invariant. -/
theorem controlInv_host (inv : ControlInv s) (effect : HostEffect s t) : ControlInv t := by
  cases effect with
  | answers returned freeCount => exact controlInv_withOwn inv _ _ _
  | setLen idle v =>
    exact ⟨inv.capacity, memoryInv_congr inv.memory rfl, { inv.flags with }, counterInv_of_idle idle⟩
  | setMsg idle j index b =>
    exact ⟨inv.capacity, memoryInv_write_msg inv.memory index b, { inv.flags with }, counterInv_of_idle idle⟩
  | start idle =>
    exact ⟨inv.capacity, memoryInv_congr inv.memory rfl, flagsInv_of_running rfl, counterInv_iff.2 trivial⟩

/-! ### Reset and steps -/

/-- 10_state R36: the reset state of any legal capacity meets the control invariant, whatever the model's own fields
hold. -/
theorem controlInv_reset {n : Nat} (legal : Config.LegalCapacity n) (script : List Turn) (returned : List ReadValue)
    (freeCount resetCount : Nat) :
    ControlInv (withOwn { State.reset with NMAX := n, resetCount := resetCount } script returned freeCount) where
  capacity := legal
  memory := ⟨rfl, rfl, rfl, rfl, rfl, rfl⟩
  flags := flagsInv_of_running rfl
  counters := counterInv_of_idle rfl

/-- While idle the buffers may hold anything. -/
theorem dataInv_of_idle (idle : s.PHASE = .idle) : DataInv s := by
  constructor <;> simp [idle]

/-- Settles O8: the flags and storage of the reset state, and PHASE = IDLE. -/
theorem invariantsHoldAtReset : Obligations.InvariantsHoldAtReset := by
  unfold Obligations.InvariantsHoldAtReset
  exact fun n legal => ⟨controlInv_reset legal _ _ _ _, dataInv_of_idle rfl⟩

/-- Settles O9, by the kind of turn: an idle turn of the engine, an operation, a host access or a reset. -/
theorem stepKeepsControlInvariant : Obligations.StepKeepsControlInvariant := by
  unfold Obligations.StepKeepsControlInvariant
  intro s t inv next
  have taken : ControlInv s.afterTurn := controlInv_withOwn inv _ _ _
  obtain ⟨-, -, rfl⟩ | ⟨i, -, selected, run⟩ | ⟨d, -, run⟩ | ⟨-, rfl⟩ := step_next next
  · exact taken
  · exact controlInv_operation taken selected run
  · exact controlInv_host taken (hostEffect_of_exec run)
  · exact controlInv_reset inv.capacity _ _ _ _

end Sys2Proof.Laws

/-! Proofs about what the host sees of the state (10_state R34). -/

namespace Sys2Proof.Laws

open Sys2Proof.Machine Sys2Proof.Safety

variable {s t : State}

/-- RREG of a register with a value (43_host_interface R181). -/
theorem execRreg_of_some {n : DWord} {r : ReadValue} (h : s.registerValue n = some r) :
    execRreg n s = .next (s.answer r) := by
  rw [execRreg, h]

/-- RREG of a register whose value is unspecified (43_host_interface R181). -/
theorem execRreg_of_none {n : DWord} (h : s.registerValue n = none) :
    execRreg n s = .next (s.answerFree (unspecifiedAnswer n)) := by
  rw [execRreg, h]

/-- RMSG in range (43_host_interface R183). -/
theorem execRmsg_of_lt {j : DWord} (h : j.toNat < s.msgCap) :
    execRmsg j s = .next (s.answer (.byte (s.msgByte j.toNat))) := if_pos h

/-- RMSG beyond the capacity (43_host_interface R183). -/
theorem execRmsg_of_not_lt {j : DWord} (h : ¬ j.toNat < s.msgCap) :
    execRmsg j s = .next (s.answerFree fun k => .byte (Config.freeByte k)) := if_neg h

/-- 10_state R34: the value of a register is a function of STATUS, LEN and, while DONE = 1, of N, PLEN and D. -/
theorem registerValue_congr (status : s.status = t.status) (len : s.LEN = t.LEN)
    (results : s.DONE = true → s.N = t.N ∧ s.PLEN = t.PLEN ∧ s.D = t.D) (n : DWord) :
    s.registerValue n = t.registerValue n := by
  have done : s.DONE = t.DONE := by rw [← status_bit_done, status, status_bit_done]
  cases ended : t.DONE with
  | false => simp [State.registerValue, status, len, done, ended]
  | true =>
    obtain ⟨blocks, length, digest⟩ := results (done.trans ended)
    simp [State.registerValue, status, len, done, ended, blocks, length, digest]

/-- Settles O22: both machines answer with the same value, or with the free one of the same number. -/
theorem hostReadsSeeOnlyTheHostView : Obligations.HostReadsSeeOnlyTheHostView := by
  unfold Obligations.HostReadsSeeOnlyTheHostView
  intro s t s' t' i read status len nmax bytes results free returned next next'
  obtain ⟨n, rfl⟩ | ⟨j, rfl⟩ := read
  · have value := registerValue_congr status len results n
    cases known : s.registerValue n with
    | some r =>
      cases (execRreg_of_some known).symm.trans next
      cases (execRreg_of_some (value ▸ known)).symm.trans next'
      simp [returned]
    | none =>
      cases (execRreg_of_none known).symm.trans next
      cases (execRreg_of_none (value ▸ known)).symm.trans next'
      simp [returned, free]
  · have capacity : s.msgCap = t.msgCap := by rw [msgCap_eq, msgCap_eq, nmax]
    by_cases inside : j.toNat < s.msgCap
    · cases (execRmsg_of_lt inside).symm.trans next
      cases (execRmsg_of_lt (capacity ▸ inside)).symm.trans next'
      simp [returned, bytes]
    · cases (execRmsg_of_not_lt inside).symm.trans next
      cases (execRmsg_of_not_lt (capacity ▸ inside)).symm.trans next'
      simp [returned, free]

end Sys2Proof.Laws

/-! Proofs about what a run computes from (10_state R38): two runs of the same inputs agree on everything that is still
to be read, operation by operation, so they end alike. -/

namespace Sys2Proof.Laws

open Sys2Proof.Machine Sys2Proof.Safety

variable {s t s' t' : State}

/-! ### The relation of two runs -/

/-- The inputs of a run (10_state R38). -/
def inputs (s : State) : DWord × Nat × List Byte := (s.LEN, s.NMAX, s.message)

/-- The lengths PSIZE computes and later operations read. -/
def lengths (s : State) : DWord × DWord × DWord := (s.L, s.PLEN, s.N)

/-- Two states hold the same bytes of PBUF below a bound. -/
def SamePadded (s t : State) (bound : Nat) : Prop := ∀ k < bound, s.pbufByte k = t.pbufByte k

/-- Two states hold the same words of WBUF below a bound. -/
def SameParsed (s t : State) (bound : Nat) : Prop := ∀ k < bound, s.wbufWord k = t.wbufWord k

/-- Two states hold the same words of the message schedule below a bound. -/
def SameSchedule (s t : State) (bound : Nat) : Prop := ∀ k < bound, s.wWord k = t.wWord k

/-- Two states are in the same block, with the same parsed words and chaining value. -/
def SameBlock (s t : State) : Prop :=
  lengths s = lengths t ∧ SameParsed s t (16 * s.N.toNat) ∧ s.H = t.H ∧ s.I = t.I

/-- What two runs of the same inputs agree on in a phase: all that this operation and later ones read before it is
written again. While idle it is what the host may see of a run that ended with a digest. -/
def SameLive (s t : State) : Phase → Prop
  | .idle => s.DONE = true → lengths s = lengths t
  | .lchk => True
  | .psize => True
  | .padb => lengths s = lengths t ∧ s.J = t.J ∧ SamePadded s t s.J.toNat
  | .pchk => lengths s = lengths t ∧ SamePadded s t s.PLEN.toNat
  | .parsew => lengths s = lengths t ∧ s.J = t.J ∧ SamePadded s t s.PLEN.toNat ∧ SameParsed s t s.J.toNat
  | .hinit => lengths s = lengths t ∧ SameParsed s t (16 * s.N.toNat)
  | .sched => SameBlock s t ∧ s.T = t.T ∧ SameSchedule s t s.T.toNat
  | .vars => SameBlock s t ∧ SameSchedule s t 64
  | .round => SameBlock s t ∧ s.T = t.T ∧ SameSchedule s t 64 ∧ s.v = t.v
  | .chain => SameBlock s t ∧ s.v = t.v
  | .finish => lengths s = lengths t ∧ s.H = t.H

/-- Two states in the same place of two runs of the same inputs. -/
structure SameRun (s t : State) : Prop where
  phase : s.PHASE = t.PHASE
  inputs : inputs s = inputs t
  flags : flags s = flags t
  running : s.PHASE ≠ .idle → s.DONE = false
  live : SameLive s t s.PHASE

/-- Two runs of the same inputs start alike, whatever their registers and buffers hold. -/
theorem sameRun_of_justStarted (hs : JustStarted s) (ht : JustStarted t) (same : inputs s = inputs t) :
    SameRun s t where
  phase := hs.phase.trans ht.phase.symm
  inputs := same
  flags := (flags_eq_running.2 ⟨hs.done, hs.error, hs.errcode, hs.digest⟩).trans
    (flags_eq_running.2 ⟨ht.done, ht.error, ht.errcode, ht.digest⟩).symm
  running := fun _ => hs.done
  live := by rw [hs.phase]; trivial

/-- The relation does not speak of the model's own fields. -/
theorem sameRun_withOwn (h : SameRun s t) (script script' : List Turn) (returned returned' : List ReadValue)
    (freeCount freeCount' : Nat) :
    SameRun (withOwn s script returned freeCount) (withOwn t script' returned' freeCount') :=
  ⟨h.phase, h.inputs, h.flags, h.running, h.live⟩

/-- An operation that leaves inputs and flags alone keeps the relation, if it takes both runs to the same phase and to
agreement on what is live there. -/
theorem sameRun_next (h : SameRun s t) (busy : s.PHASE ≠ .idle) (keepS : (inputs s', flags s') = (inputs s, flags s))
    (keepT : (inputs t', flags t') = (inputs t, flags t)) {p : Phase} (phase : s'.PHASE = p) (phase' : t'.PHASE = p)
    (live : SameLive s' t' p) : SameRun s' t' := by
  simp only [Prod.mk.injEq] at keepS keepT
  obtain ⟨inputsS, flagsS⟩ := keepS
  obtain ⟨inputsT, flagsT⟩ := keepT
  refine ⟨phase.trans phase'.symm, ?_, ?_, fun _ => ?_, phase ▸ live⟩
  · rw [inputsS, inputsT, h.inputs]
  · rw [flagsS, flagsT, h.flags]
  · exact (congrArg Prod.fst flagsS).trans (h.running busy)

/-- Two runs that raise the same error end alike. -/
theorem sameRun_raise (h : SameRun s t) (busy : s.PHASE ≠ .idle) (e : EngineError) :
    SameRun (s.raise e) (t.raise e) := by
  have same := h.flags
  simp only [flags, Prod.mk.injEq] at same
  obtain ⟨done, -, -, digest⟩ := same
  refine ⟨rfl, h.inputs, ?_, fun ended => absurd rfl ended, fun ended => ?_⟩
  · simp [flags, done, digest]
  · exact absurd (h.running busy) (by simpa using ended)

/-! ### What an operation reads and writes -/

theorem inputs_eq : inputs s = inputs t ↔ s.LEN = t.LEN ∧ s.NMAX = t.NMAX ∧ s.message = t.message := by
  simp [inputs]

theorem lengths_eq : lengths s = lengths t ↔ s.L = t.L ∧ s.PLEN = t.PLEN ∧ s.N = t.N := by
  simp [lengths]

/-- The bytes below LEN are the message (20_memory R61). -/
theorem msgByte_of_inputs (same : inputs s = inputs t) {k : Nat} (hk : k < s.LEN.toNat) :
    s.msgByte k = t.msgByte k := by
  obtain ⟨len, -, message⟩ := inputs_eq.1 same
  simp only [State.message, ← len] at message
  exact List.map_inj_left.1 message k (List.mem_range.2 hk)

/-- The byte PADB writes is a function of the message, the lengths and J (40_padder R116). -/
theorem padByte_congr (same : inputs s = inputs t) (len : lengths s = lengths t) (j : s.J = t.J) :
    s.padByte = t.padByte := by
  obtain ⟨length, -, -⟩ := inputs_eq.1 same
  obtain ⟨bits, padded, -⟩ := lengths_eq.1 len
  unfold State.padByte
  rw [← length, ← bits, ← padded, ← j]
  split
  · exact msgByte_of_inputs same ‹_›
  · rfl

/-- The word PARSEW writes is a function of four bytes of PBUF (41_block_parser R133). -/
theorem parsedWord_congr {bound : Nat} (padded : SamePadded s t bound) (j : s.J = t.J)
    (inside : 4 * s.J.toNat + 3 < bound) :
    s.parsedWord = t.parsedWord := by
  simp only [State.parsedWord, ← j]
  rw [padded _ (by omega), padded _ (by omega), padded _ (by omega), padded _ (by omega)]

/-- The word SCHED writes is a function of the block, T and the words of W below T (42_compressor R145). -/
theorem schedWord_congr (block : SameBlock s t) (index : s.T = t.T) (words : SameSchedule s t s.T.toNat)
    (inside : s.I.toNat < s.N.toNat) : s.schedWord = t.schedWord := by
  obtain ⟨-, parsed, -, i⟩ := block
  simp only [State.schedWord, State.loadIndex, ← index, ← i]
  split
  · exact parsed _ (by omega)
  · rw [words _ (by omega), words _ (by omega), words _ (by omega), words _ (by omega)]

/-- Equal bytes stored at the next index of PBUF in both states. -/
theorem samePadded_write {i i' bound : Nat} {b b' : Byte} (padded : SamePadded s t i) (index : i = i') (byte : b = b')
    (bounded : bound ≤ i + 1) (store : s'.PBUF = Memory.write s.PBUF i b) (resets : s'.resetCount = s.resetCount)
    (store' : t'.PBUF = Memory.write t.PBUF i' b') (resets' : t'.resetCount = t.resetCount) :
    SamePadded s' t' bound := by
  intro k hk
  rw [pbufByte_of_write store resets, pbufByte_of_write store' resets', ← index, byte]
  split
  · rfl
  · exact padded k (by omega)

/-- Equal words stored at the next index of WBUF in both states. -/
theorem sameParsed_write {i i' bound : Nat} {w w' : Word} (parsed : SameParsed s t i) (index : i = i') (word : w = w')
    (bounded : bound ≤ i + 1) (store : s'.WBUF = Memory.write s.WBUF i w) (resets : s'.resetCount = s.resetCount)
    (store' : t'.WBUF = Memory.write t.WBUF i' w') (resets' : t'.resetCount = t.resetCount) :
    SameParsed s' t' bound := by
  intro k hk
  rw [wbufWord_of_write store resets, wbufWord_of_write store' resets', ← index, word]
  split
  · rfl
  · exact parsed k (by omega)

/-- Equal words stored at the next index of W in both states. -/
theorem sameSchedule_set {i i' bound : Nat} {w w' : Word} (words : SameSchedule s t i) (index : i = i') (word : w = w')
    (inside : i < 64) (bounded : bound ≤ i + 1) (store : s'.W = s.W.setIfInBounds i w)
    (store' : t'.W = t.W.setIfInBounds i' w') : SameSchedule s' t' bound := by
  intro k hk
  rw [wWord_of_set store k (by omega), wWord_of_set store' k (by omega), ← index, word]
  split
  · rfl
  · exact words k (by omega)

/-! ### The operations -/

/-- LCHK in two runs of the same inputs. -/
theorem sameRun_lchk (h : SameRun s t) (phase : s.PHASE = .lchk) (next : execLchk s = .next s')
    (next' : execLchk t = .next t') : SameRun s' t' := by
  have busy : s.PHASE ≠ .idle := by simp [phase]
  obtain ⟨len, -, -⟩ := inputs_eq.1 h.inputs
  obtain ⟨long, run⟩ | ⟨fits, run⟩ := execLchk_cases (s := s) <;>
  obtain ⟨long', run'⟩ | ⟨fits', run'⟩ := execLchk_cases (s := t) <;>
  cases run.symm.trans next <;> cases run'.symm.trans next'
  · exact sameRun_raise h busy _
  · exact absurd (len ▸ long) (not_le.2 fits')
  · exact absurd (len ▸ long') (not_le.2 fits)
  · exact sameRun_next h busy rfl rfl rfl rfl trivial

/-- PSIZE in two runs of the same inputs: all it computes is a function of LEN. -/
theorem sameRun_psize (h : SameRun s t) (phase : s.PHASE = .psize) (next : execPsize s = .next s')
    (next' : execPsize t = .next t') : SameRun s' t' := by
  have busy : s.PHASE ≠ .idle := by simp [phase]
  obtain ⟨len, nmax, -⟩ := inputs_eq.1 h.inputs
  obtain ⟨full, run⟩ | ⟨fits, run⟩ := execPsize_cases (s := s) <;>
  obtain ⟨full', run'⟩ | ⟨fits', run'⟩ := execPsize_cases (s := t) <;>
  cases run.symm.trans next <;> cases run'.symm.trans next'
  · exact sameRun_raise h busy _
  · exact absurd (len ▸ nmax ▸ full) (not_lt.2 fits')
  · exact absurd (len ▸ nmax ▸ full') (not_lt.2 fits)
  · refine sameRun_next h busy rfl rfl (p := .padb) rfl rfl ⟨?_, rfl, fun k hk => absurd hk (Nat.not_lt_zero k)⟩
    simp [lengths, len]

/-- PADB in two runs of the same inputs. -/
theorem sameRun_padb (h : SameRun s t) (phase : s.PHASE = .padb) (next : execPadb s = .next s')
    (next' : execPadb t = .next t') : SameRun s' t' := by
  have busy : s.PHASE ≠ .idle := by simp [phase]
  have phase' : t.PHASE = .padb := h.phase.symm.trans phase
  obtain ⟨len, j, padded⟩ : SameLive s t .padb := phase ▸ h.live
  obtain ⟨-, plen, -⟩ := lengths_eq.1 len
  have byte := padByte_congr h.inputs len j
  obtain ⟨-, -, rfl⟩ := execPadb_next.1 next
  obtain ⟨-, -, rfl⟩ := execPadb_next.1 next'
  by_cases last : s.J.toNat + 1 = s.PLEN.toNat
  · exact sameRun_next h busy rfl rfl (p := .pchk) (if_pos last) (if_pos (j ▸ plen ▸ last))
      ⟨len, samePadded_write padded (congrArg _ j) byte last.ge rfl rfl rfl rfl⟩
  · exact sameRun_next h busy rfl rfl (p := .padb) ((if_neg last).trans phase)
      ((if_neg (j ▸ plen ▸ last)).trans phase')
      ⟨len, congrArg (· + 1) j,
        samePadded_write padded (congrArg _ j) byte (toNat_add_one_le s.J) rfl rfl rfl rfl⟩

/-- PCHK in two runs of the same inputs. -/
theorem sameRun_pchk (h : SameRun s t) (phase : s.PHASE = .pchk) (next : execPchk s = .next s')
    (next' : execPchk t = .next t') : SameRun s' t' := by
  have busy : s.PHASE ≠ .idle := by simp [phase]
  obtain ⟨len, padded⟩ : SameLive s t .pchk := phase ▸ h.live
  obtain ⟨-, plen, n⟩ := lengths_eq.1 len
  obtain ⟨bad, run⟩ | ⟨whole, blocks, run⟩ := execPchk_cases (s := s) <;>
  obtain ⟨bad', run'⟩ | ⟨whole', blocks', run'⟩ := execPchk_cases (s := t) <;>
  cases run.symm.trans next <;> cases run'.symm.trans next'
  · exact sameRun_raise h busy _
  · exact absurd (plen ▸ n ▸ bad) (by simp [whole', blocks'])
  · exact absurd (plen ▸ n ▸ bad') (by simp [whole, blocks])
  · exact sameRun_next h busy rfl rfl (p := .parsew) rfl rfl
      ⟨len, rfl, padded, fun k hk => absurd hk (Nat.not_lt_zero k)⟩

/-- PARSEW in two runs of the same inputs; the four bytes it reads are below PLEN. -/
theorem sameRun_parsew (h : SameRun s t) (phase : s.PHASE = .parsew) (counters : CounterAt s .parsew)
    (next : execParsew s = .next s') (next' : execParsew t = .next t') : SameRun s' t' := by
  have busy : s.PHASE ≠ .idle := by simp [phase]
  have phase' : t.PHASE = .parsew := h.phase.symm.trans phase
  obtain ⟨len, j, padded, parsed⟩ : SameLive s t .parsew := phase ▸ h.live
  obtain ⟨-, -, n⟩ := lengths_eq.1 len
  obtain ⟨sized, parsing⟩ := counters
  have word := parsedWord_congr padded j (by rw [sized.padded, padlen_eq, ← sized.blocks]; omega)
  obtain ⟨-, -, rfl⟩ := execParsew_next.1 next
  obtain ⟨-, -, rfl⟩ := execParsew_next.1 next'
  by_cases last : s.J.toNat + 1 = 16 * s.N.toNat
  · exact sameRun_next h busy rfl rfl (p := .hinit) (if_pos last) (if_pos (j ▸ n ▸ last))
      ⟨len, sameParsed_write parsed (congrArg _ j) word last.ge rfl rfl rfl rfl⟩
  · exact sameRun_next h busy rfl rfl (p := .parsew) ((if_neg last).trans phase)
      ((if_neg (j ▸ n ▸ last)).trans phase')
      ⟨len, congrArg (· + 1) j, padded,
        sameParsed_write parsed (congrArg _ j) word (toNat_add_one_le s.J) rfl rfl rfl rfl⟩

/-- HINIT in two runs of the same inputs. -/
theorem sameRun_hinit (h : SameRun s t) (phase : s.PHASE = .hinit) (next : execHinit s = .next s')
    (next' : execHinit t = .next t') : SameRun s' t' := by
  obtain ⟨len, parsed⟩ : SameLive s t .hinit := phase ▸ h.live
  cases next
  cases next'
  exact sameRun_next h (by simp [phase]) rfl rfl (p := .sched) rfl rfl
    ⟨⟨len, parsed, rfl, rfl⟩, rfl, fun k hk => absurd hk (Nat.not_lt_zero k)⟩

/-- SCHED in two runs of the same inputs; the word of WBUF it reads is one of the N blocks. -/
theorem sameRun_sched (h : SameRun s t) (phase : s.PHASE = .sched) (counters : CounterAt s .sched)
    (next : execSched s = .next s') (next' : execSched t = .next t') : SameRun s' t' := by
  have busy : s.PHASE ≠ .idle := by simp [phase]
  have phase' : t.PHASE = .sched := h.phase.symm.trans phase
  obtain ⟨block, index, words⟩ : SameLive s t .sched := phase ▸ h.live
  obtain ⟨-, inside, -⟩ := counters
  have word := schedWord_congr block index words inside
  obtain ⟨range, -, rfl⟩ := execSched_next.1 next
  obtain ⟨-, -, rfl⟩ := execSched_next.1 next'
  by_cases last : s.T.toNat + 1 = 64
  · exact sameRun_next h busy rfl rfl (p := .vars) (if_pos last) (if_pos (index ▸ last))
      ⟨block, sameSchedule_set words (congrArg _ index) word range last.ge rfl rfl⟩
  · exact sameRun_next h busy rfl rfl (p := .sched) ((if_neg last).trans phase)
      ((if_neg (index ▸ last)).trans phase')
      ⟨block, congrArg (· + 1) index,
        sameSchedule_set words (congrArg _ index) word range (toNat_add_one_le s.T) rfl rfl⟩

/-- VARS in two runs of the same inputs. -/
theorem sameRun_vars (h : SameRun s t) (phase : s.PHASE = .vars) (next : execVars s = .next s')
    (next' : execVars t = .next t') : SameRun s' t' := by
  obtain ⟨block, words⟩ : SameLive s t .vars := phase ▸ h.live
  have chained : s.H = t.H := block.2.2.1
  cases next
  cases next'
  exact sameRun_next h (by simp [phase]) rfl rfl (p := .round) rfl rfl ⟨block, rfl, words, by simp only [chained]⟩

/-- ROUND in two runs of the same inputs. -/
theorem sameRun_round (h : SameRun s t) (phase : s.PHASE = .round) (next : execRound s = .next s')
    (next' : execRound t = .next t') : SameRun s' t' := by
  have busy : s.PHASE ≠ .idle := by simp [phase]
  have phase' : t.PHASE = .round := h.phase.symm.trans phase
  obtain ⟨block, index, words, vars⟩ : SameLive s t .round := phase ▸ h.live
  obtain ⟨range, rfl⟩ := execRound_next.1 next
  obtain ⟨-, rfl⟩ := execRound_next.1 next'
  have word : s.wWord t.T.toNat = t.wWord t.T.toNat := words _ (index ▸ range)
  by_cases last : s.T.toNat + 1 = 64
  · exact sameRun_next h busy rfl rfl (p := .chain) (if_pos last) (if_pos (index ▸ last))
      ⟨block, by simp only [word, vars, index]⟩
  · exact sameRun_next h busy rfl rfl (p := .round) ((if_neg last).trans phase)
      ((if_neg (index ▸ last)).trans phase')
      ⟨block, congrArg (· + 1) index, words, by simp only [word, vars, index]⟩

/-- CHAIN in two runs of the same inputs. -/
theorem sameRun_chain (h : SameRun s t) (phase : s.PHASE = .chain) (next : execChain s = .next s')
    (next' : execChain t = .next t') : SameRun s' t' := by
  have busy : s.PHASE ≠ .idle := by simp [phase]
  obtain ⟨⟨len, parsed, chained, i⟩, vars⟩ : SameLive s t .chain := phase ▸ h.live
  obtain ⟨-, -, n⟩ := lengths_eq.1 len
  have sum : chainSum s.H s.v = chainSum t.H t.v := by rw [chained, vars]
  cases next
  cases next'
  by_cases more : s.I.toNat + 1 < s.N.toNat
  · have more' : t.I.toNat + 1 < t.N.toNat := i ▸ n ▸ more
    refine sameRun_next h busy rfl rfl (p := .sched) (if_pos more) (if_pos more')
      ⟨⟨len, parsed, sum, congrArg (· + 1) i⟩, ?_, ?_⟩
    · exact (if_pos more).trans (if_pos more').symm
    · simp [SameSchedule, more]
  · exact sameRun_next h busy rfl rfl (p := .finish) (if_neg more) (if_neg (i ▸ n ▸ more)) ⟨len, sum⟩

/-- FINISH in two runs of the same inputs. -/
theorem sameRun_finish (h : SameRun s t) (phase : s.PHASE = .finish) (next : execFinish s = .next s')
    (next' : execFinish t = .next t') : SameRun s' t' := by
  obtain ⟨len, chained⟩ : SameLive s t .finish := phase ▸ h.live
  have same := h.flags
  simp only [flags, Prod.mk.injEq] at same
  obtain ⟨-, error, errcode, -⟩ := same
  cases next
  cases next'
  exact ⟨rfl, h.inputs, by simp [flags, error, errcode, chained], fun busy => absurd rfl busy, fun _ => len⟩

/-- One operation of the engine in each of two runs of the same inputs. -/
theorem sameRun_operation {i : Instr} (h : SameRun s t) (counters : CounterInv s)
    (selected : s.PHASE.operation = some i) (next : exec i s = .next s') (next' : exec i t = .next t') :
    SameRun s' t' := by
  rw [counterInv_iff] at counters
  cases phase : s.PHASE <;> rw [phase] at counters selected <;> cases selected
  case lchk => exact sameRun_lchk h phase next next'
  case psize => exact sameRun_psize h phase next next'
  case padb => exact sameRun_padb h phase next next'
  case pchk => exact sameRun_pchk h phase next next'
  case parsew => exact sameRun_parsew h phase counters next next'
  case hinit => exact sameRun_hinit h phase next next'
  case sched => exact sameRun_sched h phase counters next next'
  case vars => exact sameRun_vars h phase next next'
  case round => exact sameRun_round h phase next next'
  case chain => exact sameRun_chain h phase next next'
  case finish => exact sameRun_finish h phase next next'

/-! ### Runs -/

/-- A run of one step more, in any machine: the step, then the rest. -/
theorem run_succ_eq_next (M : Host.Core) {k : Nat} {a b : M.State} :
    M.run (k + 1) a = .next b ↔ ∃ c, M.step a = .next c ∧ M.run k c = .next b := by
  rw [Host.Core.run]
  cases M.step a <;> simp

/-- A run of one turn more: the turn, then the rest. -/
theorem runsTo_succ {k : Nat} : RunsTo (k + 1) s t ↔ ∃ u, step s = .next u ∧ RunsTo k u t := run_succ_eq_next core

/-- A run that is over has not moved. -/
theorem endsAfter_of_idle {k : Nat} (idle : s.PHASE = .idle) (h : EndsAfter k s t) : t = s := by
  obtain ⟨run, -, first⟩ := h
  cases k with
  | zero => cases run; rfl
  | succ k => exact absurd idle (first 0 (Nat.succ_pos k) s rfl)

/-- A run that is not over takes a turn. -/
theorem endsAfter_of_busy {k : Nat} (busy : s.PHASE ≠ .idle) (h : EndsAfter k s t) :
    ∃ l u, k = l + 1 ∧ step s = .next u ∧ EndsAfter l u t := by
  obtain ⟨run, idle, first⟩ := h
  cases k with
  | zero => cases run; exact absurd idle busy
  | succ k =>
    obtain ⟨u, turn, rest⟩ := runsTo_succ.1 run
    exact ⟨k, u, rfl, turn, rest, idle, fun j hj v path => first (j + 1) (by omega) v (runsTo_succ.2 ⟨u, turn, path⟩)⟩

/-- A script without a reset gives no turn to it. -/
theorem turn_ne_reset (noReset : NoReset s) : s.turn ≠ .reset := by
  intro reset
  cases script : s.script with
  | nil => simp [State.turn, script] at reset
  | cons first rest => exact noReset (by simp [script, ← reset, State.turn])

/-- A turn of a run: a host access, which changes the model's own fields alone, or the operation of the phase. -/
theorem step_of_busy (busy : s.PHASE ≠ .idle) (noReset : NoReset s) (next : step s = .next t) :
    NoReset t ∧ ((∃ script returned freeCount, t = withOwn s script returned freeCount) ∨
      ∃ i, s.PHASE.operation = some i ∧ exec i s.afterTurn = .next t) := by
  have rest : Turn.reset ∉ s.script.tail := fun later => noReset (List.mem_of_mem_tail later)
  obtain ⟨-, idle, -⟩ | ⟨i, -, selected, run⟩ | ⟨d, -, run⟩ | ⟨reset, -⟩ := step_next next
  · exact absurd idle busy
  · refine ⟨?_, .inr ⟨i, selected, run⟩⟩
    rw [NoReset, script_operation (s := s.afterTurn) selected run]
    exact rest
  · cases hostEffect_of_exec run with
    | answers returned freeCount => exact ⟨rest, .inl ⟨_, _, _, rfl⟩⟩
    | setLen idle => exact absurd idle busy
    | setMsg idle => exact absurd idle busy
    | start idle => exact absurd idle busy
  · exact absurd reset (turn_ne_reset noReset)

/-- Two runs of the same inputs end alike, however host accesses fall between the operations: an access moves one of the
runs alone and keeps the relation, and otherwise both perform the same operation. -/
theorem sameRun_end {k l : Nat} (h : SameRun s t) (counters : CounterInv s) (noReset : NoReset s) (noReset' : NoReset t)
    (ends : EndsAfter k s s') (ends' : EndsAfter l t t') : SameRun s' t' := by
  induction total : k + l using Nat.strong_induction_on generalizing k l s t with
  | h n ih =>
    by_cases idle : s.PHASE = .idle
    · rw [endsAfter_of_idle idle ends, endsAfter_of_idle (h.phase ▸ idle) ends']
      exact h
    · have idle' : t.PHASE ≠ .idle := h.phase ▸ idle
      obtain ⟨k, u, rfl, turn, rest⟩ := endsAfter_of_busy idle ends
      obtain ⟨l, u', rfl, turn', rest'⟩ := endsAfter_of_busy idle' ends'
      obtain ⟨later, ⟨script, returned, freeCount, rfl⟩ | ⟨i, selected, run⟩⟩ := step_of_busy idle noReset turn
      · exact ih _ (by omega) (sameRun_withOwn h script t.script returned t.returned freeCount t.freeCount)
          (counterInv_withOwn counters _ _ _) later noReset' rest ends' rfl
      obtain ⟨later', ⟨script, returned, freeCount, rfl⟩ | ⟨i', selected', run'⟩⟩ := step_of_busy idle' noReset' turn'
      · exact ih _ (by omega) (sameRun_withOwn h s.script script s.returned returned s.freeCount freeCount)
          counters noReset later' ends rest' rfl
      · have same : i = i' := Option.some.inj (selected.symm.trans (h.phase ▸ selected'))
        have counters' : CounterInv s.afterTurn := counterInv_withOwn counters _ _ _
        have taken : SameRun s.afterTurn t.afterTurn := sameRun_withOwn h _ _ _ _ _ _
        exact ih _ (by omega) (sameRun_operation taken counters' selected run (same ▸ run'))
          (counterInv_operation counters' selected run) later later' rest rest' rfl

/-- STATUS is a function of the flags and PHASE (10_state R29). -/
theorem status_congr (same : flags s = flags t) (phase : s.PHASE = t.PHASE) : s.status = t.status := by
  simp only [flags, Prod.mk.injEq] at same
  obtain ⟨done, error, errcode, -⟩ := same
  rw [State.status, State.status, State.busy, State.busy, done, error, errcode, phase]

/-- Settles O58: the two runs start alike, so they end alike, and agree there on the flags, D and the lengths. -/
theorem resultDependsOnlyOnTheInputs : Obligations.ResultDependsOnlyOnTheInputs := by
  unfold Obligations.ResultDependsOnlyOnTheInputs
  intro s t s' t' k l start start' noReset noReset' len nmax message ends ends'
  have begun : SameRun s t := sameRun_of_justStarted start start' (inputs_eq.2 ⟨len, nmax, message⟩)
  have counters : CounterInv s := counterInv_iff.2 (by rw [start.phase]; trivial)
  have ended : SameRun s' t' := sameRun_end begun counters noReset noReset' ends ends'
  have results : SameLive s' t' .idle := ends.2.1 ▸ ended.live
  refine ⟨status_congr ended.flags ended.phase, congrArg (·.2.2.2) ended.flags, fun done => ?_⟩
  obtain ⟨-, padded, blocks⟩ := lengths_eq.1 (results done)
  exact ⟨blocks, padded⟩

end Sys2Proof.Laws

/-! Proofs about the storage spaces and who may change them (20_memory R60 to R63, R72, R74). -/

namespace Sys2Proof.Laws

open Sys2Proof.Machine

variable {s t : State}

/-! ### A host access while BUSY -/

/-- 30_encoding R91: "no descriptor is illegal", so every host access answers a next state. -/
theorem exec_decodeHost_next (d : BitVec 130) (s : State) : ∃ t, exec (decodeHost d) s = .next t := by
  obtain ⟨n, access⟩ | ⟨n, v, access⟩ | ⟨j, access⟩ | ⟨j, b, access⟩ | access := decodeHost_cases d <;> rw [access]
  · obtain ⟨_, -, run⟩ | ⟨-, run⟩ := execRreg_cases (s := s) n <;> exact ⟨_, run⟩
  · obtain ⟨-, -, run⟩ | ⟨-, -, run⟩ | run := execWreg_cases (s := s) n v <;> exact ⟨_, run⟩
  · obtain ⟨-, run⟩ | ⟨-, run⟩ := execRmsg_cases (s := s) j <;> exact ⟨_, run⟩
  · obtain ⟨-, -, run⟩ | ⟨-, run⟩ := execWmsg_cases (s := s) j b <;> exact ⟨_, run⟩
  · exact ⟨_, rfl⟩

/-- 70_reset_and_hazards R244, R245, R247: a host access acts on the engine only if PHASE = IDLE, so while BUSY it does no
more than answer. -/
theorem hostEffect_of_busy (busy : s.PHASE ≠ .idle) (effect : HostEffect s t) :
    ∃ returned freeCount, t = withOwn s s.script returned freeCount := by
  cases effect with
  | answers returned freeCount => exact ⟨returned, freeCount, rfl⟩
  | setLen idle => exact absurd idle busy
  | setMsg idle => exact absurd idle busy
  | start idle => exact absurd idle busy

/-- Settles O20: the turn is the access of its descriptor, which answers, and while BUSY only answers. -/
theorem hostTurnWhileBusyChangesNothing : Obligations.HostTurnWhileBusyChangesNothing := by
  unfold Obligations.HostTurnWhileBusyChangesNothing
  intro s d rest busy script
  obtain ⟨t, run⟩ := exec_decodeHost_next d s.afterTurn
  obtain ⟨returned, freeCount, rfl⟩ := hostEffect_of_busy (s := s.afterTurn) busy (hostEffect_of_exec run)
  have turn : step s = exec (decodeHost d) s.afterTurn := by rw [step_eq, turn_of_cons script]
  exact ⟨_, turn.trans run, by simp [withOwn, State.afterTurn, script]⟩

/-! ### One writer for each space -/

/-- The storage spaces of 20_memory R60 with LEN, and the model's own fields that no instruction changes. -/
def spaces (s : State) :
    List Host.Cell × DWord × List Host.Cell × List (Nat × Word) × Vector Word 64 × Nat × List Turn × Nat :=
  (s.MSG, s.LEN, s.PBUF, s.WBUF, s.W, s.NMAX, s.script, s.resetCount)

theorem spaces_startCall (s : State) : spaces s.startCall = spaces s := by
  obtain ⟨-, call⟩ | ⟨-, call⟩ := startCall_cases (s := s) <;> rw [call]
  rfl

/-- What an instruction does to storage: WMSG, WREG of register 2, PADB, PARSEW and SCHED write one space each, and no
other instruction writes any. -/
theorem spaces_exec {i : Instr} (next : exec i s = .next t) :
    spaces t = spaces s ∨
    (∃ j b, i = .wmsg j b ∧ spaces t = spaces { s with MSG := t.MSG }) ∨
    (∃ v, i = .wreg 2 v ∧ spaces t = spaces { s with LEN := t.LEN }) ∨
    (i = .padb ∧ spaces t = spaces { s with PBUF := t.PBUF }) ∨
    (i = .parsew ∧ spaces t = spaces { s with WBUF := t.WBUF }) ∨
    (i = .sched ∧ spaces t = spaces { s with W := t.W }) := by
  cases i
  case wmsg j b =>
    obtain ⟨-, -, run⟩ | ⟨-, run⟩ := execWmsg_cases (s := s) j b <;> cases run.symm.trans next
    · exact .inr (.inl ⟨j, b, rfl, rfl⟩)
    · exact .inl rfl
  case wreg n v =>
    obtain ⟨-, -, run⟩ | ⟨rfl, -, run⟩ | run := execWreg_cases (s := s) n v <;> cases run.symm.trans next
    · exact .inl (spaces_startCall s)
    · exact .inr (.inr (.inl ⟨v, rfl, rfl⟩))
    · exact .inl rfl
  case padb =>
    obtain ⟨-, -, rfl⟩ := execPadb_next.1 next
    exact .inr (.inr (.inr (.inl ⟨rfl, rfl⟩)))
  case parsew =>
    obtain ⟨-, -, rfl⟩ := execParsew_next.1 next
    exact .inr (.inr (.inr (.inr (.inl ⟨rfl, rfl⟩))))
  case sched =>
    obtain ⟨-, -, rfl⟩ := execSched_next.1 next
    exact .inr (.inr (.inr (.inr (.inr ⟨rfl, rfl⟩))))
  all_goals left
  case rreg n => obtain ⟨_, -, run⟩ | ⟨-, run⟩ := execRreg_cases (s := s) n <;> cases run.symm.trans next <;> rfl
  case rmsg j => obtain ⟨-, run⟩ | ⟨-, run⟩ := execRmsg_cases (s := s) j <;> cases run.symm.trans next <;> rfl
  case start => cases next; exact spaces_startCall s
  case lchk => obtain ⟨-, run⟩ | ⟨-, run⟩ := execLchk_cases (s := s) <;> cases run.symm.trans next <;> rfl
  case psize => obtain ⟨-, run⟩ | ⟨-, run⟩ := execPsize_cases (s := s) <;> cases run.symm.trans next <;> rfl
  case pchk => obtain ⟨-, run⟩ | ⟨-, -, run⟩ := execPchk_cases (s := s) <;> cases run.symm.trans next <;> rfl
  case round => obtain ⟨-, rfl⟩ := execRound_next.1 next; rfl
  case hinit | vars | chain | finish => cases next; rfl

/-- Settles O38: in each case of what an instruction does to storage, at most the space of its writer changes. -/
theorem storageHasOneWriter : Obligations.StorageHasOneWriter := by
  unfold Obligations.StorageHasOneWriter
  intro i s t next
  obtain same | ⟨j, b, rfl, same⟩ | ⟨v, rfl, same⟩ | ⟨rfl, same⟩ | ⟨rfl, same⟩ | ⟨rfl, same⟩ := spaces_exec next <;>
    simp only [spaces, Prod.mk.injEq] at same <;> simp [same]

end Sys2Proof.Laws

/-! Proofs about the byte order of the digest, of parsed words and of the length field (20_memory R65 to R67). -/

namespace Sys2Proof.Laws

open Sys2Proof.Machine

/-! ### The digest -/

/-- 20_memory R67: byte j of a word, the most significant one first. -/
theorem getElem?_wordBytes (w : Word) {j : Nat} (hj : j < 4) :
    (wordBytes w)[j]? = some (w.extractLsb' (24 - 8 * j) 8) := by
  interval_cases j <;> rfl

/-- Each word gives four bytes. -/
theorem length_flatMap_wordBytes (ws : List Word) : (ws.flatMap wordBytes).length = 4 * ws.length := by
  simp [List.length_flatMap, wordBytes, Nat.mul_comm]

/-- The bytes of word i are those from 4·i on. -/
theorem getElem?_flatMap_wordBytes (ws : List Word) {i j : Nat} (hj : j < 4) :
    (ws.flatMap wordBytes)[4 * i + j]? = ws[i]?.map fun w => w.extractLsb' (24 - 8 * j) 8 := by
  induction ws generalizing i with
  | nil => rfl
  | cons w ws ih =>
    have four : (wordBytes w).length = 4 := rfl
    rw [List.flatMap_cons]
    cases i with
    | zero => simpa [List.getElem?_append_left, four, hj] using getElem?_wordBytes w hj
    | succ i =>
      have index : 4 * (i + 1) + j - (wordBytes w).length = 4 * i + j := by omega
      rw [List.getElem?_append_right (by omega), index, ih, List.getElem?_cons_succ]

/-- Settles O49: eight words of four bytes each. -/
theorem digestByteOrder : Obligations.DigestByteOrder := by
  unfold Obligations.DigestByteOrder
  intro d
  refine ⟨?_, fun i j => ?_⟩
  · rw [digestBytes, length_flatMap_wordBytes, Vector.length_toList]
  · rw [digestBytes, getElem?_flatMap_wordBytes _ j.isLt]
    simp

/-! ### Parsing -/

/-- 41_block_parser R131: one word for each whole group of four bytes. -/
theorem length_parse : ∀ p : List Byte, (parse p).length = p.length / 4
  | [] | [_] | [_, _] | [_, _, _] => by simp [parse]
  | _ :: _ :: _ :: _ :: rest => by
    rw [parse, List.length_cons, length_parse rest]
    exact (Nat.add_div_right rest.length (by decide : 0 < 4)).symm

/-- Parsing goes group by group, so bytes that end with a group may be parsed apart from those that follow. -/
theorem parse_append : ∀ {p : List Byte}, 4 ∣ p.length → ∀ q, parse (p ++ q) = parse p ++ parse q
  | [], _, _ => rfl
  | [_], whole, _ | [_, _], whole, _ | [_, _, _], whole, _ => absurd whole (by simp)
  | b0 :: b1 :: b2 :: b3 :: rest, whole, q =>
    have whole' : 4 ∣ rest.length := by simpa using whole
    congrArg (be32 b0 b1 b2 b3 :: ·) (parse_append whole' q)

/-! ### The length field -/

/-- 20_memory R66: byte i of the length field, the most significant one first. -/
theorem getElem?_be64 (x : DWord) {i : Nat} (hi : i < 8) : (be64 x)[i]? = some (x.extractLsb' (8 * (7 - i)) 8) := by
  interval_cases i <;> rfl

/-- Four consecutive bytes of a 64-bit value, the most significant one first, are 32 consecutive bits (20_memory R65). -/
theorem be32_extractLsb' (x : DWord) (k : Nat) :
    be32 (x.extractLsb' (k + 24) 8) (x.extractLsb' (k + 16) 8) (x.extractLsb' (k + 8) 8) (x.extractLsb' k 8) =
      x.extractLsb' k 32 := by
  have join {start start' len len' : Nat} (h : start' = start + len) :=
    BitVec.extractLsb'_append_extractLsb'_eq_extractLsb' (x := x) (len₂ := len') h
  rw [be32, join (by rfl), join (by rfl), join (by rfl)]

/-- The length field parses to the high and the low half of the length. -/
theorem parse_be64 (x : DWord) : parse (be64 x) = [x.extractLsb' 32 32, x.extractLsb' 0 32] := by
  rw [← be32_extractLsb' x 32, ← be32_extractLsb' x 0]
  rfl

/-- The padded message up to its length field (40_padder R112). -/
def padFront (m : List Byte) : List Byte := m ++ [0x80] ++ List.replicate (zpad m.length) 0x00

theorem pad_eq (m : List Byte) : pad m = padFront m ++ be64 (BitVec.ofNat 64 (bitlen m.length)) := rfl

/-- 40_padder R111: the length field is the last eight bytes of the padded message. -/
theorem length_padFront (m : List Byte) : (padFront m).length = padlen m.length - 8 := by
  simp only [padFront, padlen, List.length_append, List.length_singleton, List.length_replicate, Nat.add_sub_cancel]

/-- Byte i of the length field stands at PLEN − 8 + i of the padded message. -/
theorem getElem?_pad_lengthField (m : List Byte) (i : Nat) :
    (pad m)[padlen m.length - 8 + i]? = (be64 (BitVec.ofNat 64 (bitlen m.length)))[i]? := by
  rw [pad_eq, ← length_padFront, List.getElem?_append_right (Nat.le_add_right _ _), Nat.add_sub_cancel_left]

/-- The length field is two whole words behind whole words, so the last two parsed words are its halves. -/
theorem getElem?_parse_pad_lengthField (m : List Byte) (i : Nat) :
    (parse (pad m))[16 * nblocks m.length - 2 + i]? = (parse (be64 (BitVec.ofNat 64 (bitlen m.length))))[i]? := by
  have length := length_padFront m
  have blocks := padlen_eq m.length
  have whole : 4 ∣ (padFront m).length := by omega
  have words : (parse (padFront m)).length = 16 * nblocks m.length - 2 := by rw [length_parse]; omega
  rw [pad_eq, parse_append whole, ← words, List.getElem?_append_right (Nat.le_add_right _ _), Nat.add_sub_cancel_left]

/-- 40_padder R111: the bit length of a message below 2^61 bytes fits its 64-bit field. -/
theorem toNat_bitlen {n : Nat} (fits : n < 2 ^ 61) : (BitVec.ofNat 64 (bitlen n)).toNat = 8 * n :=
  Nat.mod_eq_of_lt (by rw [bitlen]; omega)

/-- Settles O48: the length field stands at PLEN − 8 of the padded message, and its words behind those of the rest. -/
theorem lengthFieldIsBigEndian : Obligations.LengthFieldIsBigEndian := by
  unfold Obligations.LengthFieldIsBigEndian
  intro m fits
  have value := toNat_bitlen fits
  refine ⟨fun i hi => ?_, ?_⟩
  · rw [getElem?_pad_lengthField, getElem?_be64 _ hi]
    exact ⟨_, rfl, by rw [BitVec.extractLsb'_toNat, value, Nat.shiftRight_eq_div_pow]⟩
  · have blocks := nblocks_pos m.length
    have last : 16 * nblocks m.length - 1 = 16 * nblocks m.length - 2 + 1 := by omega
    have hi := getElem?_parse_pad_lengthField m 0
    have lo := getElem?_parse_pad_lengthField m 1
    rw [parse_be64] at hi lo
    rw [← last] at lo
    refine ⟨_, _, hi, lo, ?_, ?_⟩ <;> rw [BitVec.extractLsb'_toNat, value, Nat.shiftRight_eq_div_pow]
    · exact Nat.mod_eq_of_lt (by omega)
    · rw [Nat.pow_zero, Nat.div_one]

end Sys2Proof.Laws

/-! Proofs about the two formats of codes and the opcode table (30_encoding R90, R91, R95). -/

namespace Sys2Proof.Laws

open Sys2Proof.Machine

/-! ### The parts of a descriptor -/

@[simp] theorem descriptorKind_descriptor (k : BitVec 2) (i v : DWord) : descriptorKind (descriptor k i v) = k := by
  have kind : (k ++ i ++ v).extractLsb' 128 2 = k := by
    rw [BitVec.extractLsb'_append_eq_of_le (by omega), BitVec.extractLsb'_append_eq_left]
  exact kind

@[simp] theorem descriptorIndex_descriptor (k : BitVec 2) (i v : DWord) : descriptorIndex (descriptor k i v) = i := by
  have index : (k ++ i ++ v).extractLsb' 64 64 = i := by
    rw [BitVec.extractLsb'_append_eq_of_le (by omega), BitVec.extractLsb'_append_eq_right]
  exact index

@[simp] theorem descriptorData_descriptor (k : BitVec 2) (i v : DWord) : descriptorData (descriptor k i v) = v :=
  BitVec.extractLsb'_append_eq_right

/-- A descriptor is its three parts (30_encoding R91). -/
theorem descriptor_parts (d : BitVec 130) :
    descriptor (descriptorKind d) (descriptorIndex d) (descriptorData d) = d := by
  have parts : d.extractLsb' 128 2 ++ d.extractLsb' 64 64 ++ d.extractLsb' 0 64 = d := by
    rw [BitVec.extractLsb'_append_extractLsb'_eq_extractLsb' (by rfl),
      BitVec.extractLsb'_append_extractLsb'_eq_extractLsb' (by rfl), BitVec.extractLsb'_eq_self]
  exact parts

theorem descriptor_inj {k k' : BitVec 2} {i i' v v' : DWord} :
    descriptor k i v = descriptor k' i' v' ↔ k = k' ∧ i = i' ∧ v = v' := by
  refine ⟨fun same => ⟨?_, ?_, ?_⟩, ?_⟩
  · simpa using congrArg descriptorKind same
  · simpa using congrArg descriptorIndex same
  · simpa using congrArg descriptorData same
  · rintro ⟨rfl, rfl, rfl⟩
    rfl

theorem descriptor_and (k k' : BitVec 2) (i i' v v' : DWord) :
    descriptor k i v &&& descriptor k' i' v' = descriptor (k &&& k') (i &&& i') (v &&& v') := by
  have parts : (k ++ i ++ v) &&& (k' ++ i' ++ v') = (k &&& k') ++ (i &&& i') ++ (v &&& v') := by
    rw [BitVec.and_append, BitVec.and_append]
  exact parts

/-! ### Decoding what was encoded -/

/-- Log 14: the byte of a WMSG is written with zeros above it. -/
theorem extractLsb'_setWidth_byte (b : Byte) : (b.setWidth 64).extractLsb' 0 8 = b := by
  rw [BitVec.extractLsb'_setWidth_of_le (by omega), BitVec.extractLsb'_eq_self]

/-- Settles O1: a host access is read back part by part, and an engine operation is the one its phase selects. -/
theorem decodeOfEncodeIsIdentity : Obligations.DecodeOfEncodeIsIdentity := by
  unfold Obligations.DecodeOfEncodeIsIdentity
  intro i wf
  cases i
  case wreg n v =>
    have other : ¬ (n = 0 ∧ v.extractLsb' 0 32 = 1) := wf
    simp only [encode, decode, decodeHost, descriptorKind_descriptor, descriptorIndex_descriptor,
      descriptorData_descriptor, if_neg other]
    rfl
  case wmsg j b => simp [encode, decode, decodeHost, extractLsb'_setWidth_byte]
  case rreg | rmsg | start => simp [encode, decode, decodeHost]
  all_goals exact decode_phase_code _

/-! ### The opcode table -/

/-- A row of descriptors matches part by part. -/
theorem matches_descriptor {r : TableRow} {km kp : BitVec 2} {im ip vm vp : DWord}
    (mask : r.mask = (descriptor km im vm).toNat) (pattern : r.pattern = (descriptor kp ip vp).toNat)
    (d : BitVec 130) : r.matches d.toNat = true ↔
      descriptorKind d &&& km = kp ∧ descriptorIndex d &&& im = ip ∧ descriptorData d &&& vm = vp := by
  rw [TableRow.matches, mask, pattern, beq_iff_eq, ← BitVec.toNat_and, BitVec.toNat_inj, ← descriptor_parts d,
    descriptor_and, descriptor_inj]
  simp

/-- The low 32 bits of the data, as the mask of START takes them. -/
theorem and_low32_eq_one (v : DWord) : v &&& 0xffffffff = 1 ↔ v.extractLsb' 0 32 = 1 := by
  have low : v &&& 0xffffffff = 0#32 ++ v.setWidth 32 := BitVec.and_setWidth_allOnes 32 32 v
  have one : (1 : DWord) = 0#32 ++ 1#32 := by decide
  rw [low, one, BitVec.append_right_inj, BitVec.setWidth_eq_extractLsb' (by omega)]
  rfl

/-- The row of a kind of host access, which leaves index and data open (30_encoding R91). -/
def kindRow (mnemonic : String) (k : BitVec 2) : TableRow :=
  ⟨mnemonic, 130, (descriptor k 0 0).toNat, (descriptor 3 0 0).toNat⟩

/-- The row of START: kind, index and data[31:0] are fixed (30_encoding R92). -/
def startRow : TableRow := ⟨"START", 130, (descriptor 1 0 1).toNat, (descriptor 3 (BitVec.allOnes 64) 0xffffffff).toNat⟩

/-- The host rows of the model's table in these terms. -/
theorem hostRows_eq :
    hostRows = [startRow, kindRow "RREG" 0, kindRow "WREG" 1, kindRow "RMSG" 2, kindRow "WMSG" 3] := by
  decide

theorem kindRow_matches (mnemonic : String) (k : BitVec 2) (d : BitVec 130) :
    (kindRow mnemonic k).matches d.toNat = decide (descriptorKind d = k) := by
  have kind : descriptorKind d &&& 3 = descriptorKind d := BitVec.and_allOnes
  rw [Bool.eq_iff_iff, matches_descriptor rfl rfl, kind, decide_eq_true_iff]
  simp

theorem startRow_matches (d : BitVec 130) : startRow.matches d.toNat =
    decide (descriptorKind d = 1 ∧ descriptorIndex d = 0 ∧ (descriptorData d).extractLsb' 0 32 = 1) := by
  have kind : descriptorKind d &&& 3 = descriptorKind d := BitVec.and_allOnes
  rw [Bool.eq_iff_iff, matches_descriptor rfl rfl, kind, BitVec.and_allOnes, and_low32_eq_one, decide_eq_true_iff]

/-- Every descriptor matches the row of the access it decodes to; of START and WREG, the first. -/
theorem rowOf_host (d : BitVec 130) : (rowOf (.host d)).map TableRow.mnemonic = some (decodeHost d).mnemonic := by
  have fourth (k : BitVec 2) (h0 : k ≠ 0) (h1 : k ≠ 1) (h2 : k ≠ 2) : k = 3 := by
    revert k
    decide
  rw [rowOf, rowsFor, hostRows_eq, Code.number]
  simp only [List.find?_cons, startRow_matches, kindRow_matches, decodeHost]
  by_cases h0 : descriptorKind d = 0
  · simp [h0, kindRow, Instr.mnemonic]
  by_cases h1 : descriptorKind d = 1
  · by_cases call : descriptorIndex d = 0 ∧ (descriptorData d).extractLsb' 0 32 = 1
    · simp [h1, call, startRow, Instr.mnemonic]
    · simp only [h1, true_and, if_neg call, decide_eq_false call]
      simp [kindRow, Instr.mnemonic]
  by_cases h2 : descriptorKind d = 2
  · simp [h2, kindRow, Instr.mnemonic]
  · simp [fourth _ h0 h1 h2, kindRow, Instr.mnemonic]

/-- The sixteen PHASE codes against the engine rows, one by one. -/
theorem rowOf_phase : ∀ c : BitVec 4, (rowOf (.phase c)).map TableRow.mnemonic =
    match decode (.phase c) with
    | .ok i => some i.mnemonic
    | .error _ => none := by
  decide

/-- Settles O2: every descriptor decodes to the access of its first row, and the PHASE codes are those of the engine
rows. -/
theorem decodeFollowsOpcodeTable : Obligations.DecodeFollowsOpcodeTable := by
  unfold Obligations.DecodeFollowsOpcodeTable
  rintro (d | c)
  · refine ⟨fun i decoded => ?_, fun undecoded => absurd rfl (undecoded (decodeHost d))⟩
    cases decoded
    exact rowOf_host d
  · have row := rowOf_phase c
    cases decoded : decode (.phase c) with
    | ok i =>
      refine ⟨fun j same => ?_, fun undecoded => absurd rfl (undecoded i)⟩
      cases same
      rw [row, decoded]
    | error e =>
      rw [decoded] at row
      exact ⟨nofun, fun _ => Option.map_eq_none_iff.1 row⟩

/-- The term a descriptor decodes to is the well-formed spelling: a WREG that is START is decoded as `start`. -/
theorem decodeHost_wellFormed (d : BitVec 130) : (decodeHost d).WellFormed := by
  unfold decodeHost
  split_ifs with h0 h1 call h2
  case neg => exact call
  all_goals trivial

/-- Settles O3: the five accesses a descriptor decodes to, each well-formed. -/
theorem everyDescriptorIsAHostAccess : Obligations.EveryDescriptorIsAHostAccess := by
  unfold Obligations.EveryDescriptorIsAHostAccess
  exact fun d => ⟨decodeHost d, rfl, decodeHost_wellFormed d, decodeHost_cases d⟩

/-- Settles O4, by decoding each word. -/
theorem specWordsDecode : Obligations.SpecWordsDecode := by
  unfold Obligations.SpecWordsDecode
  decide

/-! ### Turns -/

/-- An engine turn performs what the code of PHASE decodes to (30_encoding R95). -/
theorem step_of_engine {s : State} (turn : s.turn = .engine) : step s = stepCode (.phase s.PHASE.code) s.afterTurn := by
  rw [step, turn]

/-- A host turn performs what its descriptor decodes to (30_encoding R90). -/
theorem step_of_host {s : State} {d : BitVec 130} (turn : s.turn = .host d) :
    step s = stepCode (.host d) s.afterTurn := by
  rw [step, turn]

theorem stepCode_of_ok {c : Code} {i : Instr} (decoded : decode c = .ok i) (s : State) : stepCode c s = exec i s := by
  rw [stepCode, decoded]

/-- Settles O5: the turn selects the code, and the code the operation. -/
theorem stepRunsTheSelectedOperation : Obligations.StepRunsTheSelectedOperation := by
  unfold Obligations.StepRunsTheSelectedOperation
  refine fun s => ⟨fun i turn decoded => ?_, fun d i turn decoded => ?_, fun turn idle => ?_, turn_of_nil⟩
  · exact (step_of_engine turn).trans (stepCode_of_ok decoded _)
  · exact (step_of_host turn).trans (stepCode_of_ok decoded _)
  · have selected : decode (.phase s.PHASE.code) = .error .idle := by rw [idle, decode_phase_code]; rfl
    rw [step_of_engine turn, stepCode, selected]
    rfl

/-! ### The phase after an operation -/

/-- Settles O41, phase by phase: an operation raises an error, stays where it is, or hands over. -/
theorem phaseSuccessors : Obligations.PhaseSuccessors := by
  unfold Obligations.PhaseSuccessors
  intro i s t selected next
  cases phase : s.PHASE <;> rw [phase] at selected <;> cases selected
  case lchk => obtain ⟨-, run⟩ | ⟨-, run⟩ := execLchk_cases (s := s) <;> cases run.symm.trans next <;> simp
  case psize => obtain ⟨-, run⟩ | ⟨-, run⟩ := execPsize_cases (s := s) <;> cases run.symm.trans next <;> simp
  case padb =>
    obtain ⟨-, -, rfl⟩ := execPadb_next.1 next
    by_cases last : s.J.toNat + 1 = s.PLEN.toNat <;> simp [last, phase]
  case pchk => obtain ⟨-, run⟩ | ⟨-, -, run⟩ := execPchk_cases (s := s) <;> cases run.symm.trans next <;> simp
  case parsew =>
    obtain ⟨-, -, rfl⟩ := execParsew_next.1 next
    by_cases last : s.J.toNat + 1 = 16 * s.N.toNat <;> simp [last, phase]
  case sched =>
    obtain ⟨-, -, rfl⟩ := execSched_next.1 next
    by_cases last : s.T.toNat + 1 = 64 <;> simp [last, phase]
  case round =>
    obtain ⟨-, rfl⟩ := execRound_next.1 next
    by_cases last : s.T.toNat + 1 = 64 <;> simp [last, phase]
  case chain =>
    cases next
    by_cases more : s.I.toNat + 1 < s.N.toNat <;> simp [more]
  case hinit | vars | finish => cases next; simp

end Sys2Proof.Laws

/-! Proofs about the reference functions (00_scope R14): what the padded message, the parsed words, the message schedule
and the rounds hold at an index. -/

namespace Sys2Proof.Laws

open Sys2Proof.Machine Sys2Proof.Safety

variable {s t : State}

/-! ### Lists and storage -/

/-- The first n elements of a list are those that storage holds at the indices below n. -/
def Spells {α : Type} (l : List α) (f : Nat → α) (n : Nat) : Prop := ∀ k < n, l[k]? = some (f k)

theorem spells_zero {α : Type} (l : List α) (f : Nat → α) : Spells l f 0 := fun k hk => absurd hk (Nat.not_lt_zero k)

/-- One more element: the next one of the list is stored at the next index, and the others stay. -/
theorem Spells.store {α : Type} {l : List α} {f g : Nat → α} {n n' : Nat} {x : α} (old : Spells l f n)
    (next : l[n]? = some x) (one : n' = n + 1) (stored : ∀ k ≤ n, g k = if k = n then x else f k) :
    Spells l g n' := by
  intro k hk
  rw [stored k (by omega)]
  split
  · subst k
    exact next
  · exact old k (by omega)

theorem Spells.getD_eq {α : Type} {l : List α} {f : Nat → α} {n k : Nat} (h : Spells l f n) (hk : k < n) (x : α) :
    l.getD k x = f k := by
  rw [List.getD_eq_getElem?_getD, h k hk, Option.getD_some]

/-! ### The padded message -/

/-- 20_memory R61: the message has LEN bytes. -/
@[simp] theorem length_message (s : State) : s.message.length = s.LEN.toNat := by
  rw [State.message, List.length_map, List.length_range]

/-- 20_memory R61: "the message is MSG[0 .. LEN−1]". -/
theorem spells_message (s : State) : Spells s.message s.msgByte s.LEN.toNat := by
  intro k hk
  rw [State.message, List.getElem?_map, List.getElem?_range hk]
  rfl

/-- A list of LEN bytes that MSG holds is the message. -/
theorem message_eq_of_spells {m : List Byte} (h : Spells m s.msgByte m.length) (len : s.LEN.toNat = m.length) :
    s.message = m := by
  refine List.ext_getElem? fun k => ?_
  by_cases hk : k < m.length
  · rw [spells_message s k (len ▸ hk), h k hk]
  · rw [List.getElem?_eq_none (by rw [length_message]; omega), List.getElem?_eq_none (by omega)]

/-- Before the length field the padded message is its front. -/
theorem getElem?_pad_front (m : List Byte) {j : Nat} (hj : j + 8 < padlen m.length) :
    (pad m)[j]? = (padFront m)[j]? := by
  rw [pad_eq, List.getElem?_append_left (by rw [length_padFront]; omega)]

/-- 40_padder R112: the message comes first. -/
theorem getElem?_pad_message (m : List Byte) {j : Nat} (hj : j < m.length) : (pad m)[j]? = m[j]? := by
  rw [getElem?_pad_front m (by rw [padlen]; omega), padFront, List.append_assoc, List.getElem?_append_left hj]

/-- 40_padder R112: the byte 0x80 follows the message. -/
theorem getElem?_pad_one (m : List Byte) : (pad m)[m.length]? = some 0x80 := by
  rw [getElem?_pad_front m (by rw [padlen]; omega), padFront, List.append_assoc,
    List.getElem?_append_right le_rfl, Nat.sub_self]
  rfl

/-- 40_padder R112: zeros up to the length field. -/
theorem getElem?_pad_zero (m : List Byte) {j : Nat} (after : m.length < j) (hj : j + 8 < padlen m.length) :
    (pad m)[j]? = some 0x00 := by
  rw [getElem?_pad_front m hj, padFront, List.getElem?_append_right (by simpa using after)]
  refine List.getElem?_replicate_of_lt ?_
  rw [padlen] at hj
  simp only [List.length_append, List.length_singleton]
  omega

/-- 40_padder R112: the bit length ends the padded message, most significant byte first. -/
theorem getElem?_pad_bits (m : List Byte) {j : Nat} (field : padlen m.length ≤ j + 8) (hj : j < padlen m.length) :
    (pad m)[j]? = some ((BitVec.ofNat 64 (bitlen m.length) >>> (8 * (padlen m.length - 1 - j))).setWidth 8) := by
  have long : 8 ≤ padlen m.length := by rw [padlen]; omega
  have index : padlen m.length - 8 + (j + 8 - padlen m.length) = j := by omega
  have shift : 7 - (j + 8 - padlen m.length) = padlen m.length - 1 - j := by omega
  have byte := getElem?_pad_lengthField m (j + 8 - padlen m.length)
  rw [index, getElem?_be64 _ (by omega), shift] at byte
  exact byte

/-- 40_padder R116: the byte PADB writes is the byte of the padded message at J. -/
theorem getElem?_pad_padByte (sized : Sized s) (padding : s.J.toNat < s.PLEN.toNat) :
    (pad s.message)[s.J.toNat]? = some s.padByte := by
  have bits : BitVec.ofNat 64 (bitlen s.LEN.toNat) = s.L := by rw [← sized.bits, BitVec.ofNat_toNat, BitVec.setWidth_eq]
  have padded : s.PLEN.toNat = padlen s.message.length := by rw [length_message]; exact sized.padded
  unfold State.padByte
  split_ifs with message one zero
  · rw [getElem?_pad_message _ (by simpa using message), spells_message s _ message]
  · rw [one, ← length_message, getElem?_pad_one]
  · exact getElem?_pad_zero _ (by rw [length_message]; omega) (padded ▸ zero)
  · rw [getElem?_pad_bits _ (by omega) (padded ▸ padding), ← padded, length_message, bits]

/-! ### The parsed words -/

/-- 41_block_parser R131: word w is the big-endian word of the four bytes from 4·w on. -/
theorem getElem?_parse : ∀ {p : List Byte} {f : Nat → Byte} {w : Nat}, Spells p f (4 * w + 4) →
    (parse p)[w]? = some (be32 (f (4 * w)) (f (4 * w + 1)) (f (4 * w + 2)) (f (4 * w + 3)))
  | b0 :: b1 :: b2 :: b3 :: rest, f, 0, h => by
    obtain rfl : b0 = f 0 := Option.some.inj (h 0 (by omega))
    obtain rfl : b1 = f 1 := Option.some.inj (h 1 (by omega))
    obtain rfl : b2 = f 2 := Option.some.inj (h 2 (by omega))
    obtain rfl : b3 = f 3 := Option.some.inj (h 3 (by omega))
    rfl
  | b0 :: b1 :: b2 :: b3 :: rest, f, w + 1, h => by
    have tail : Spells rest (fun k => f (k + 4)) (4 * w + 4) := fun k hk => h (k + 4) (by omega)
    exact (getElem?_parse tail :)
  | [], _, _, h | [_], _, _, h | [_, _], _, _, h | [_, _, _], _, _, h => by
    simpa using h 3 (by omega)

/-- 41_block_parser R133: the word PARSEW writes is word J of the parsed message. -/
theorem getElem?_parse_parsedWord {p : List Byte} {bound : Nat} (padded : Spells p s.pbufByte bound)
    (inside : 4 * s.J.toNat + 4 ≤ bound) : (parse p)[s.J.toNat]? = some s.parsedWord :=
  getElem?_parse fun k hk => padded k (hk.trans_le inside)

/-- 40_padder R112: the padded message has PLEN bytes. -/
theorem length_pad (m : List Byte) : (pad m).length = padlen m.length := by
  have : 8 ≤ padlen m.length := by rw [padlen]; omega
  rw [pad_eq, List.length_append, length_padFront]
  exact Nat.sub_add_cancel this

/-- 41_block_parser R131: sixteen words for each block. -/
theorem length_parse_pad (m : List Byte) : (parse (pad m)).length = 16 * nblocks m.length := by
  rw [length_parse, length_pad, padlen_eq]
  omega

/-! ### The message schedule -/

/-- 41_block_parser R134: word t of block i. -/
theorem getElem?_blockWords (ws : List Word) (i : Nat) {t : Nat} (ht : t < 16) :
    (blockWords ws i)[t]? = ws[16 * i + t]? := by
  rw [blockWords, List.getElem?_take_of_lt ht, List.getElem?_drop]

theorem length_blockWords {ws : List Word} {n i : Nat} (length : ws.length = 16 * n) (block : i < n) :
    (blockWords ws i).length = 16 := by
  rw [blockWords, List.length_take, List.length_drop]
  omega

theorem length_schedExtend (k : Nat) (w : List Word) : (schedExtend k w).length = w.length + k := by
  induction k generalizing w with
  | zero => rfl
  | succ k ih => rw [schedExtend, ih, List.length_append, List.length_singleton, Nat.add_right_comm, Nat.add_assoc]

/-- The words there are stay. -/
theorem prefix_schedExtend (k : Nat) (w : List Word) : w <+: schedExtend k w := by
  induction k generalizing w with
  | zero => exact List.prefix_rfl
  | succ k ih => exact (List.prefix_append w _).trans (ih _)

/-- Each new word is the next one of the words before it. -/
theorem getElem?_schedExtend {k t : Nat} {w : List Word} (new : w.length ≤ t) (ht : t < w.length + k) :
    (schedExtend k w)[t]? = some (schedNext ((schedExtend k w).take t)) := by
  induction k generalizing w with
  | zero => omega
  | succ k ih =>
    have length : (w ++ [schedNext w]).length = w.length + 1 := List.length_append
    by_cases first : t = w.length
    · subst t
      have later : w ++ [schedNext w] <+: schedExtend (k + 1) w := prefix_schedExtend k _
      rw [← List.prefix_iff_eq_take.1 (prefix_schedExtend (k + 1) w), List.prefix_iff_getElem?.1 later _ (by omega)]
      simp
    · exact ih (by omega) (by omega)

theorem length_schedule {m : List Word} (length : m.length = 16) : (schedule m).length = 64 := by
  rw [schedule, length_schedExtend, length]

/-- 42_compressor R156: the first sixteen words of the schedule are those of the block. -/
theorem getElem?_schedule_load {m : List Word} (length : m.length = 16) {t : Nat} (ht : t < 16) :
    (schedule m)[t]? = m[t]? := by
  have inside : t < m.length := length ▸ ht
  rw [schedule, List.prefix_iff_getElem?.1 (prefix_schedExtend 48 m) t inside, List.getElem?_eq_getElem inside]

/-- 42_compressor R156: the words from 16 on are expanded from the ones before. -/
theorem getElem?_schedule_expand {m : List Word} {f : Nat → Word} {t : Nat} (length : m.length = 16)
    (before : Spells (schedule m) f t) (new : 16 ≤ t) (ht : t < 64) :
    (schedule m)[t]? = some (SIG1 (f (t - 2)) + f (t - 7) + SIG0 (f (t - 15)) + f (t - 16)) := by
  have taken : ((schedule m).take t).length = t := by rw [List.length_take, length_schedule length]; omega
  have words : Spells ((schedule m).take t) f t := fun k hk => by rw [List.getElem?_take_of_lt hk, before k hk]
  rw [schedule, getElem?_schedExtend (length ▸ new) (length ▸ ht), ← schedule]
  simp only [schedNext, taken]
  rw [words.getD_eq (by omega), words.getD_eq (by omega), words.getD_eq (by omega), words.getD_eq (by omega)]

/-! ### Rounds and chaining -/

/-- 42_compressor R147: ROUND computes the round function of R156. -/
theorem toVector_round (v : WorkVars) (k w : Word) :
    (⟨roundT1 v k w + roundT2 v, v.a, v.b, v.c, v.d + roundT1 v k w, v.e, v.f, v.g⟩ : WorkVars).toVector =
      roundFn v.toVector k w := rfl

/-- 42_compressor R148: CHAIN adds element by element. -/
theorem chainSum_eq_zipWith (h : Vector Word 8) (v : WorkVars) :
    chainSum h v = Vector.zipWith (· + ·) h v.toVector := by
  refine Vector.ext fun j hj => ?_
  rw [Vector.getElem_zipWith]
  interval_cases j <;> rfl

end Sys2Proof.Laws

/-! Proofs about the data invariant of a run (40_padder R118, 41_block_parser R135, 42_compressor R158): every operation
of the engine keeps it. -/

namespace Sys2Proof.Laws

open Sys2Proof.Machine Sys2Proof.Safety

variable {s t : State}

/-! ### What each phase finds in the buffers -/

/-- The parsed words of a run are in WBUF (41_block_parser R135). -/
def Parsed (s : State) : Prop := Spells s.messageWords s.wbufWord (16 * s.N.toNat)

/-- The schedule of the block being compressed (42_compressor R156). -/
def blockSchedule (s : State) : List Word := schedule (blockWords s.messageWords s.I.toNat)

/-- While a block is compressed, WBUF holds the parsed words and H the chaining value before the block. -/
def InBlock (s : State) : Prop := Parsed s ∧ s.H = chainState s.messageWords s.I.toNat

/-- The working variables are those after T rounds (42_compressor R158). -/
def RoundsDone (s : State) : Prop :=
  s.v.toVector = roundsUpTo s.H (blockWords s.messageWords s.I.toNat) s.T.toNat

/-- The data invariant of the model read phase by phase: what the operation of a phase finds. -/
def DataAt (s : State) : Phase → Prop
  | .idle => True
  | .lchk => True
  | .psize => True
  | .padb => Spells (pad s.message) s.pbufByte s.J.toNat
  | .pchk => Spells (pad s.message) s.pbufByte s.PLEN.toNat
  | .parsew => Spells (pad s.message) s.pbufByte s.PLEN.toNat ∧ Spells s.messageWords s.wbufWord s.J.toNat
  | .hinit => Parsed s
  | .sched => InBlock s ∧ Spells (blockSchedule s) s.wWord s.T.toNat
  | .vars => InBlock s ∧ Spells (blockSchedule s) s.wWord 64
  | .round => InBlock s ∧ Spells (blockSchedule s) s.wWord 64 ∧ RoundsDone s
  | .chain => InBlock s ∧ Spells (blockSchedule s) s.wWord 64 ∧ RoundsDone s
  | .finish => s.H = sha256 s.message

/-- What the data invariant gives the operation of the present phase. -/
theorem dataAt_of_dataInv (h : DataInv s) : DataAt s s.PHASE := by
  cases phase : s.PHASE with
  | idle | lchk | psize => trivial
  | padb => exact h.paddedTo phase
  | pchk => exact h.padded (by simp [phase])
  | parsew => exact ⟨h.padded (by simp [phase]), h.parsedTo phase⟩
  | hinit => exact h.parsed (by simp [phase])
  | sched => exact ⟨⟨h.parsed (by simp [phase]), h.chained (by simp [phase])⟩, h.schedTo phase⟩
  | vars => exact ⟨⟨h.parsed (by simp [phase]), h.chained (by simp [phase])⟩, h.sched (by simp [phase])⟩
  | round | chain =>
    exact ⟨⟨h.parsed (by simp [phase]), h.chained (by simp [phase])⟩, h.sched (by simp [phase]),
      h.rounds (by simp [phase])⟩
  | finish => exact h.digest phase

/-- What the present phase finds is all that the data invariant says: its other parts are of other phases. -/
theorem dataInv_of_dataAt (h : DataAt s s.PHASE) : DataInv s := by
  cases phase : s.PHASE <;> rw [phase] at h <;> constructor <;> intro now <;> simp [phase] at now
  case padb.paddedTo | pchk.padded | hinit.parsed | finish.digest => exact h
  case parsew.padded => exact h.1
  case parsew.parsedTo => exact h.2
  case sched.parsed | vars.parsed | round.parsed | chain.parsed => exact h.1.1
  case sched.chained | vars.chained | round.chained | chain.chained => exact h.1.2
  case sched.schedTo | vars.sched => exact h.2
  case round.sched | chain.sched => exact h.2.1
  case round.rounds | chain.rounds => exact h.2.2

/-- The phase-by-phase reading is the model's data invariant. -/
theorem dataInv_iff : DataInv s ↔ DataAt s s.PHASE := ⟨dataAt_of_dataInv, dataInv_of_dataAt⟩

/-! ### The Padder and the Block Parser -/

/-- PADB stores one more byte of the padded message (40_padder R118). -/
theorem dataAt_padb (phase : s.PHASE = .padb) (sized : Sized s) (padding : s.J.toNat < s.PLEN.toNat)
    (data : DataAt s .padb) (next : execPadb s = .next t) : DataAt t t.PHASE := by
  have byte := getElem?_pad_padByte sized padding
  have count := toNat_add_one padding s.PLEN.isLt
  obtain ⟨-, -, result⟩ := execPadb_next.1 next
  have stored {n : Nat} (hn : n = s.J.toNat + 1) : Spells (pad s.message) t.pbufByte n :=
    Spells.store data byte hn fun k _ => pbufByte_of_write (by rw [result]) (by rw [result]) k
  subst result
  by_cases last : s.J.toNat + 1 = s.PLEN.toNat
  · simp only [if_pos last]
    exact stored last.symm
  · simp only [if_neg last, phase]
    exact stored count

/-- PCHK changes no buffer, and nothing is parsed yet (41_block_parser R132). -/
theorem dataAt_pchk (data : DataAt s .pchk) (next : execPchk s = .next t) : DataAt t t.PHASE := by
  obtain ⟨-, run⟩ | ⟨-, -, run⟩ := execPchk_cases (s := s) <;> cases run.symm.trans next
  · trivial
  · exact ⟨data, spells_zero _ _⟩

/-- PARSEW stores one more word of the parsed message (41_block_parser R135). -/
theorem dataAt_parsew (phase : s.PHASE = .parsew) (sized : Sized s) (parsing : s.J.toNat < 16 * s.N.toNat)
    (data : DataAt s .parsew) (next : execParsew s = .next t) : DataAt t t.PHASE := by
  obtain ⟨padded, parsed⟩ := data
  have length : s.PLEN.toNat = 64 * s.N.toNat := by rw [sized.padded, padlen_eq, sized.blocks]
  have word : s.messageWords[s.J.toNat]? = some s.parsedWord := getElem?_parse_parsedWord padded (by omega)
  have count := toNat_add_one (x := s.J) (bound := s.PLEN.toNat) (by omega) s.PLEN.isLt
  obtain ⟨-, -, result⟩ := execParsew_next.1 next
  have stored {n : Nat} (hn : n = s.J.toNat + 1) : Spells s.messageWords t.wbufWord n :=
    parsed.store word hn fun k _ => wbufWord_of_write (by rw [result]) (by rw [result]) k
  subst result
  by_cases last : s.J.toNat + 1 = 16 * s.N.toNat
  · simp only [if_pos last]
    exact stored last.symm
  · simp only [if_neg last, phase]
    exact ⟨padded, stored count⟩

/-! ### The Compressor -/

/-- A run parses sixteen words for each of its blocks. -/
theorem length_messageWords (sized : Sized s) : s.messageWords.length = 16 * s.N.toNat := by
  rw [State.messageWords, length_parse_pad, length_message, sized.blocks]

/-- 42_compressor R145: the word SCHED writes is word T of the schedule of the block. -/
theorem getElem?_blockSchedule (sized : Sized s) (block : s.I.toNat < s.N.toNat) (index : s.T.toNat < 64)
    (parsed : Parsed s) (words : Spells (blockSchedule s) s.wWord s.T.toNat) :
    (blockSchedule s)[s.T.toNat]? = some s.schedWord := by
  have sixteen := length_blockWords (length_messageWords sized) block
  simp only [State.schedWord]
  split
  · rename_i load
    rw [blockSchedule, getElem?_schedule_load sixteen load, getElem?_blockWords _ _ load]
    exact parsed _ (by omega)
  · exact getElem?_schedule_expand sixteen words (by omega) index

/-- SCHED stores one more word of the schedule (42_compressor R158). -/
theorem dataAt_sched (phase : s.PHASE = .sched) (sized : Sized s) (block : s.I.toNat < s.N.toNat)
    (data : DataAt s .sched) (next : execSched s = .next t) : DataAt t t.PHASE := by
  obtain ⟨inBlock, words⟩ := data
  obtain ⟨index, -, result⟩ := execSched_next.1 next
  have word := getElem?_blockSchedule sized block index inBlock.1 words
  have count := toNat_add_one index (by decide)
  have stored {n : Nat} (hn : n = s.T.toNat + 1) : Spells (blockSchedule s) t.wWord n :=
    words.store word hn fun k hk => wWord_of_set (by rw [result]) k (by omega)
  subst result
  by_cases last : s.T.toNat + 1 = 64
  · simp only [if_pos last]
    exact ⟨inBlock, stored last.symm⟩
  · simp only [if_neg last, phase]
    exact ⟨inBlock, stored count⟩

/-- VARS takes over the chaining value: no round is done yet (42_compressor R146). -/
theorem dataAt_vars (data : DataAt s .vars) (next : execVars s = .next t) : DataAt t t.PHASE := by
  obtain ⟨inBlock, words⟩ := data
  cases next
  refine ⟨inBlock, words, ?_⟩
  show (WorkVars.toVector ⟨s.H[0], s.H[1], s.H[2], s.H[3], s.H[4], s.H[5], s.H[6], s.H[7]⟩) = s.H
  refine Vector.ext fun j hj => ?_
  interval_cases j <;> rfl

/-- ROUND does one more round (42_compressor R158). -/
theorem dataAt_round (phase : s.PHASE = .round) (data : DataAt s .round) (next : execRound s = .next t) :
    DataAt t t.PHASE := by
  obtain ⟨inBlock, words, rounds⟩ := data
  obtain ⟨index, rfl⟩ := execRound_next.1 next
  have count := toNat_add_one index (by decide)
  have word : (blockSchedule s).getD s.T.toNat 0 = s.wWord s.T.toNat := words.getD_eq index 0
  have after : roundFn s.v.toVector (kWord s.T.toNat) (s.wWord s.T.toNat) =
      roundsUpTo s.H (blockWords s.messageWords s.I.toNat) (s.T + 1).toNat := by
    rw [count, roundsUpTo, ← rounds, ← word, blockSchedule]
  by_cases last : s.T.toNat + 1 = 64
  · simp only [if_pos last]
    exact ⟨inBlock, words, after⟩
  · simp only [if_neg last, phase]
    exact ⟨inBlock, words, after⟩

/-- CHAIN takes H from before the block to after it; after the last block it is the digest (42_compressor R158). -/
theorem dataAt_chain (sized : Sized s) (block : s.I.toNat < s.N.toNat) (rounded : s.T.toNat = 64)
    (data : DataAt s .chain) (next : execChain s = .next t) : DataAt t t.PHASE := by
  obtain ⟨⟨parsed, chained⟩, -, rounds⟩ := data
  have count := toNat_add_one block s.N.isLt
  have after : chainSum s.H s.v = chainState s.messageWords (s.I.toNat + 1) := by
    rw [chainSum_eq_zipWith, rounds, rounded, chainState, ← chained, compressBlock]
  cases next
  by_cases more : s.I.toNat + 1 < s.N.toNat
  · simp only [if_pos more]
    refine ⟨⟨parsed, ?_⟩, spells_zero _ _⟩
    exact after.trans (congrArg (chainState s.messageWords) count.symm)
  · simp only [if_neg more]
    have last : s.I.toNat + 1 = nblocks s.message.length := by rw [length_message, ← sized.blocks]; omega
    exact after.trans (congrArg (chainState s.messageWords) last)

/-- Every operation of the engine keeps the data invariant. -/
theorem dataInv_operation {i : Instr} (counters : CounterInv s) (data : DataInv s)
    (selected : s.PHASE.operation = some i) (next : exec i s = .next t) : DataInv t := by
  rw [counterInv_iff] at counters
  rw [dataInv_iff] at data ⊢
  cases phase : s.PHASE <;> rw [phase] at counters data selected <;> cases selected
  case lchk => obtain ⟨-, run⟩ | ⟨-, run⟩ := execLchk_cases (s := s) <;> cases run.symm.trans next <;> trivial
  case psize =>
    obtain ⟨-, run⟩ | ⟨-, run⟩ := execPsize_cases (s := s) <;> cases run.symm.trans next
    · trivial
    · exact spells_zero _ _
  case padb => exact dataAt_padb phase counters.1 counters.2 data next
  case pchk => exact dataAt_pchk data next
  case parsew => exact dataAt_parsew phase counters.1 counters.2 data next
  case hinit =>
    cases next
    exact ⟨⟨data, rfl⟩, spells_zero _ _⟩
  case sched => exact dataAt_sched phase counters.1 counters.2.1 data next
  case vars => exact dataAt_vars data next
  case round => exact dataAt_round phase data next
  case chain => exact dataAt_chain counters.1 counters.2.1 counters.2.2 data next
  case finish =>
    cases next
    trivial

end Sys2Proof.Laws

/-! Proofs about a run that ends with a digest (43_host_interface R192, 70_reset_and_hazards R249): every turn of the
engine is taken, brings the end one step nearer, and leaves the host's side of the state alone. -/

namespace Sys2Proof.Laws

open Sys2Proof.Machine Sys2Proof.Safety

variable {s t : State}

/-! ### No operation stops -/

/-- 20_memory R77: "The engine itself never forms an out-of-range index", so an operation that finds its counters where
its phase has them goes on. -/
theorem exec_operation_next {i : Instr} (counters : CounterInv s) (selected : s.PHASE.operation = some i) :
    ∃ t, exec i s = .next t := by
  rw [counterInv_iff] at counters
  cases phase : s.PHASE <;> rw [phase] at counters selected <;> cases selected
  case lchk => obtain ⟨-, run⟩ | ⟨-, run⟩ := execLchk_cases (s := s) <;> exact ⟨_, run⟩
  case psize => obtain ⟨-, run⟩ | ⟨-, run⟩ := execPsize_cases (s := s) <;> exact ⟨_, run⟩
  case padb =>
    obtain ⟨⟨-, -, -, padded, blocks, capacity⟩, padding⟩ := counters
    have length := padlen_eq s.LEN.toNat
    have room : s.LEN.toNat + 9 ≤ padlen s.LEN.toNat := by rw [padlen]; omega
    exact ⟨_, execPadb_next.2 ⟨by omega, fun _ => by omega, rfl⟩⟩
  case pchk => obtain ⟨-, run⟩ | ⟨-, -, run⟩ := execPchk_cases (s := s) <;> exact ⟨_, run⟩
  case parsew =>
    obtain ⟨sized, parsing⟩ := counters
    have capacity := sized.capacity
    exact ⟨_, execParsew_next.2 ⟨by omega, by omega, rfl⟩⟩
  case sched =>
    obtain ⟨sized, block, index⟩ := counters
    have capacity := sized.capacity
    exact ⟨_, execSched_next.2 ⟨index, fun _ => by omega, rfl⟩⟩
  case round =>
    obtain ⟨-, -, index⟩ := counters
    exact ⟨_, execRound_next.2 ⟨index, rfl⟩⟩
  case hinit | vars | chain | finish => exact ⟨_, rfl⟩

/-! ### What the engine leaves to the host -/

/-- The fields no operation of the engine writes: the host's inputs, and the model's own fields. -/
def hostSide (s : State) : List Host.Cell × DWord × Nat × Nat × List Turn × List ReadValue :=
  (s.MSG, s.LEN, s.NMAX, s.resetCount, s.script, s.returned)

/-- Every operation of the engine leaves the host's side alone. -/
theorem hostSide_operation {i : Instr} (selected : s.PHASE.operation = some i) (next : exec i s = .next t) :
    hostSide t = hostSide s := by
  cases phase : s.PHASE <;> rw [phase] at selected <;> cases selected
  case lchk => obtain ⟨-, run⟩ | ⟨-, run⟩ := execLchk_cases (s := s) <;> cases run.symm.trans next <;> rfl
  case psize => obtain ⟨-, run⟩ | ⟨-, run⟩ := execPsize_cases (s := s) <;> cases run.symm.trans next <;> rfl
  case pchk => obtain ⟨-, run⟩ | ⟨-, -, run⟩ := execPchk_cases (s := s) <;> cases run.symm.trans next <;> rfl
  case padb => obtain ⟨-, -, rfl⟩ := execPadb_next.1 next; rfl
  case parsew => obtain ⟨-, -, rfl⟩ := execParsew_next.1 next; rfl
  case sched => obtain ⟨-, -, rfl⟩ := execSched_next.1 next; rfl
  case round => obtain ⟨-, rfl⟩ := execRound_next.1 next; rfl
  case hinit | vars | chain | finish => cases next; rfl

/-- The message and the capacity are on the host's side. -/
theorem inputs_of_hostSide (h : hostSide t = hostSide s) : inputs t = inputs s := by
  simp only [hostSide, Prod.mk.injEq] at h
  obtain ⟨msg, len, nmax, resets, -, -⟩ := h
  exact inputs_eq.2 ⟨len, nmax, by simp only [State.message, len, funext (msgByte_congr msg resets)]⟩

/-! ### The steps still to come -/

/-- The number of words of a run fits the index register of the Block Parser (00_scope R10). -/
theorem words_lt_of_sized (sized : Sized s) : 16 * s.N.toNat < 2 ^ 64 := by
  have := nblocks_le sized.lenOk
  rw [sized.blocks]
  omega


/-- The operations a run still takes to its digest, phase by phase (70_reset_and_hazards R249): 64 for the bytes and 16
for the words of each block, 130 for its compression, and one for each of the other five. -/
def stepsLeft (s : State) : Nat :=
  match s.PHASE with
  | .idle => 0
  | .lchk => runSteps (nblocks s.LEN.toNat)
  | .psize => 210 * nblocks s.LEN.toNat + 4
  | .padb => (s.PLEN.toNat - s.J.toNat) + (146 * s.N.toNat + 3)
  | .pchk => 146 * s.N.toNat + 3
  | .parsew => (16 * s.N.toNat - s.J.toNat) + (130 * s.N.toNat + 2)
  | .hinit => 130 * s.N.toNat + 2
  | .sched => (64 - s.T.toNat) + 66 + 130 * (s.N.toNat - 1 - s.I.toNat) + 1
  | .vars => 66 + 130 * (s.N.toNat - 1 - s.I.toNat) + 1
  | .round => (64 - s.T.toNat) + 1 + 130 * (s.N.toNat - 1 - s.I.toNat) + 1
  | .chain => 1 + 130 * (s.N.toNat - 1 - s.I.toNat) + 1
  | .finish => 1

/-- Only an idle engine has no step to come. -/
theorem stepsLeft_eq_zero : stepsLeft s = 0 ↔ s.PHASE = .idle := by
  cases phase : s.PHASE <;> simp [stepsLeft, phase, runSteps]

/-- LCHK of a length that fits. -/
theorem stepsLeft_lchk (phase : s.PHASE = .lchk) (short : s.LEN.toNat < 2 ^ 61) (next : execLchk s = .next t) :
    stepsLeft t + 1 = stepsLeft s := by
  obtain ⟨long, -⟩ | ⟨-, run⟩ := execLchk_cases (s := s)
  · omega
  · cases run.symm.trans next
    simp only [stepsLeft, phase, runSteps]

/-- PSIZE of a message that fits. -/
theorem stepsLeft_psize (phase : s.PHASE = .psize) (short : s.LEN.toNat < 2 ^ 61)
    (capacity : nblocks s.LEN.toNat ≤ s.NMAX) (next : execPsize s = .next t) : stepsLeft t + 1 = stepsLeft s := by
  have sized := counterAt_psize short next
  obtain ⟨full, -⟩ | ⟨-, run⟩ := execPsize_cases (s := s)
  · omega
  · cases run.symm.trans next
    have blocks : (BitVec.ofNat 64 (nblocks s.LEN.toNat)).toNat = nblocks s.LEN.toNat := sized.1.blocks
    have padded : (BitVec.ofNat 64 (padlen s.LEN.toNat)).toNat = padlen s.LEN.toNat := sized.1.padded
    have start : (0 : DWord).toNat = 0 := rfl
    have length := padlen_eq s.LEN.toNat
    simp only [stepsLeft, phase, blocks, padded, start]
    omega

/-- PADB: one byte less to pad, and after the last one the rest of the run. -/
theorem stepsLeft_padb (phase : s.PHASE = .padb) (padding : s.J.toNat < s.PLEN.toNat) (next : execPadb s = .next t) :
    stepsLeft t + 1 = stepsLeft s := by
  have count := toNat_add_one padding s.PLEN.isLt
  obtain ⟨-, -, rfl⟩ := execPadb_next.1 next
  by_cases last : s.J.toNat + 1 = s.PLEN.toNat
  · simp only [stepsLeft, phase, if_pos last]
    omega
  · simp only [stepsLeft, phase, if_neg last, count]
    omega

/-- PCHK of whole blocks (41_block_parser R136). -/
theorem stepsLeft_pchk (phase : s.PHASE = .pchk) (sized : Sized s) (next : execPchk s = .next t) :
    stepsLeft t + 1 = stepsLeft s := by
  obtain ⟨bad, -⟩ | ⟨-, -, run⟩ := execPchk_cases (s := s)
  · rw [sized.padded, sized.blocks, padlen_eq] at bad
    omega
  · cases run.symm.trans next
    have start : (0 : DWord).toNat = 0 := rfl
    simp only [stepsLeft, phase, start]
    omega

/-- PARSEW: one word less to parse, and after the last one the rest of the run. -/
theorem stepsLeft_parsew (phase : s.PHASE = .parsew) (sized : Sized s) (parsing : s.J.toNat < 16 * s.N.toNat)
    (next : execParsew s = .next t) : stepsLeft t + 1 = stepsLeft s := by
  have count := toNat_add_one parsing (words_lt_of_sized sized)
  obtain ⟨-, -, rfl⟩ := execParsew_next.1 next
  by_cases last : s.J.toNat + 1 = 16 * s.N.toNat
  · simp only [stepsLeft, phase, if_pos last]
    omega
  · simp only [stepsLeft, phase, if_neg last, count]
    omega

/-- HINIT: the compression of every block is to come. -/
theorem stepsLeft_hinit (phase : s.PHASE = .hinit) (sized : Sized s) (next : execHinit s = .next t) :
    stepsLeft t + 1 = stepsLeft s := by
  have positive : 1 ≤ s.N.toNat := sized.blocks ▸ nblocks_pos _
  cases next
  have block : (0 : DWord).toNat = 0 := rfl
  have index : (0 : BitVec 7).toNat = 0 := rfl
  simp only [stepsLeft, phase, block, index]
  omega

/-- SCHED: one word less of the schedule, and after the last one the rest of the block. -/
theorem stepsLeft_sched (phase : s.PHASE = .sched) (next : execSched s = .next t) :
    stepsLeft t + 1 = stepsLeft s := by
  obtain ⟨index, -, rfl⟩ := execSched_next.1 next
  have count := toNat_add_one index (by decide)
  by_cases last : s.T.toNat + 1 = 64
  · simp only [stepsLeft, phase, if_pos last]
    omega
  · simp only [stepsLeft, phase, if_neg last, count]
    omega

/-- ROUND: one round less, and after the last one the rest of the block. -/
theorem stepsLeft_round (phase : s.PHASE = .round) (next : execRound s = .next t) :
    stepsLeft t + 1 = stepsLeft s := by
  obtain ⟨index, rfl⟩ := execRound_next.1 next
  have count := toNat_add_one index (by decide)
  by_cases last : s.T.toNat + 1 = 64
  · simp only [stepsLeft, phase, if_pos last]
    omega
  · simp only [stepsLeft, phase, if_neg last, count]
    omega

/-- CHAIN: one block less, and after the last one FINISH. -/
theorem stepsLeft_chain (phase : s.PHASE = .chain) (block : s.I.toNat < s.N.toNat) (next : execChain s = .next t) :
    stepsLeft t + 1 = stepsLeft s := by
  have count := toNat_add_one block s.N.isLt
  have index : (0 : BitVec 7).toNat = 0 := rfl
  cases next
  by_cases more : s.I.toNat + 1 < s.N.toNat
  · simp only [stepsLeft, phase, if_pos more, count, index]
    omega
  · simp only [stepsLeft, phase, if_neg more]
    omega

/-- Every operation of a run that fits brings its end one step nearer. -/
theorem stepsLeft_operation {i : Instr} (counters : CounterInv s) (short : s.LEN.toNat < 2 ^ 61)
    (capacity : nblocks s.LEN.toNat ≤ s.NMAX) (selected : s.PHASE.operation = some i) (next : exec i s = .next t) :
    stepsLeft t + 1 = stepsLeft s := by
  rw [counterInv_iff] at counters
  cases phase : s.PHASE <;> rw [phase] at counters selected <;> cases selected
  case lchk => exact stepsLeft_lchk phase short next
  case psize => exact stepsLeft_psize phase short capacity next
  case padb => exact stepsLeft_padb phase counters.2 next
  case pchk => exact stepsLeft_pchk phase counters.1 next
  case parsew => exact stepsLeft_parsew phase counters.1 counters.2 next
  case hinit => exact stepsLeft_hinit phase counters.1 next
  case sched => exact stepsLeft_sched phase next
  case vars =>
    cases next
    have index : (0 : BitVec 7).toNat = 0 := rfl
    simp only [stepsLeft, phase, index]
    omega
  case round => exact stepsLeft_round phase next
  case chain => exact stepsLeft_chain phase counters.2.1 next
  case finish =>
    cases next
    simp only [stepsLeft, phase]

/-- FINISH is the last operation of a run. -/
theorem one_lt_stepsLeft (busy : s.PHASE ≠ .idle) (other : s.PHASE ≠ .finish) : 1 < stepsLeft s := by
  cases phase : s.PHASE <;> simp_all [stepsLeft, runSteps] <;> omega

/-! ### The flags of a run -/

/-- In a run that fits no check raises an error, and only FINISH ends it, with the digest in D. -/
theorem flags_operation {i : Instr} (counters : CounterInv s) (short : s.LEN.toNat < 2 ^ 61)
    (capacity : nblocks s.LEN.toNat ≤ s.NMAX) (selected : s.PHASE.operation = some i) (next : exec i s = .next t) :
    (t.PHASE ≠ .idle ∧ flags t = flags s) ∨
    (s.PHASE = .finish ∧ t.PHASE = .idle ∧ flags t = (true, s.ERROR, s.ERRCODE, some s.H)) := by
  have goesOn (busy : s.PHASE ≠ .idle) (other : s.PHASE ≠ .finish) : t.PHASE ≠ .idle := fun idle => by
    have more := one_lt_stepsLeft busy other
    have nearer := stepsLeft_operation counters short capacity selected next
    rw [stepsLeft_eq_zero.2 idle] at nearer
    omega
  cases phase : s.PHASE <;> rw [phase] at selected goesOn <;> cases selected
  case finish =>
    cases next
    exact .inr ⟨rfl, rfl, rfl⟩
  case lchk | psize | pchk =>
    have busy := goesOn (by simp) (by simp)
    obtain ⟨e, rfl⟩ | ⟨same, -⟩ := check_cases (by simp) next
    · exact absurd rfl busy
    · exact .inl ⟨busy, same⟩
  all_goals exact .inl ⟨goesOn (by simp) (by simp), flags_exec trivial (by simp) next⟩

/-- 10_state R29: STATUS of a run that goes on. -/
theorem status_of_running (running : flags s = runningFlags) (busy : s.PHASE ≠ .idle) : s.status = 0x00000001 := by
  obtain ⟨done, error, errcode, -⟩ := flags_eq_running.1 running
  have bit : s.busy = true := by simpa using busy
  rw [State.status, done, error, errcode, bit]
  decide

/-- 10_state R29: STATUS of a run that ended with a digest. -/
theorem status_of_done {d : Option (Vector Word 8)} (ended : flags s = (true, false, 0, d)) (idle : s.PHASE = .idle) :
    s.status = 0x00000002 := by
  simp only [flags, Prod.mk.injEq] at ended
  obtain ⟨done, error, errcode, -⟩ := ended
  have bit : s.busy = false := by simpa using idle
  rw [State.status, done, error, errcode, bit]
  decide

/-! ### A run on its course -/

/-- A run of the message m that ends with its digest: it fits, so no error of 60_exceptions R210 is raised in it. -/
structure OnCourse (m : List Byte) (s : State) : Prop where
  counters : CounterInv s
  data : DataInv s
  short : m.length < 2 ^ 61
  capacity : nblocks m.length ≤ s.NMAX
  message : s.message = m
  running : s.PHASE ≠ .idle → flags s = runningFlags
  ended : s.PHASE = .idle → flags s = (true, false, 0, some (sha256 m))

/-- Right after START a run whose message fits is on its course (43_host_interface R185). -/
theorem onCourse_of_lchk {m : List Byte} (phase : s.PHASE = .lchk) (started : flags s = runningFlags)
    (short : m.length < 2 ^ 61) (capacity : nblocks m.length ≤ s.NMAX) (message : s.message = m) : OnCourse m s where
  counters := counterInv_iff.2 (by rw [phase]; trivial)
  data := dataInv_iff.2 (by rw [phase]; trivial)
  short := short
  capacity := capacity
  message := message
  running := fun _ => started
  ended := fun idle => by simp [phase] at idle

/-- A run does not depend on the model's own fields. -/
theorem onCourse_withOwn {m : List Byte} (h : OnCourse m s) (script : List Turn) (returned : List ReadValue)
    (freeCount : Nat) : OnCourse m (withOwn s script returned freeCount) where
  counters := counterInv_withOwn h.counters _ _ _
  data := { h.data with }
  short := h.short
  capacity := h.capacity
  message := h.message
  running := h.running
  ended := h.ended

/-- The engine's next operation is performed and keeps the run on its course. -/
theorem onCourse_operation {m : List Byte} {i : Instr} (h : OnCourse m s) (selected : s.PHASE.operation = some i) :
    ∃ t, exec i s = .next t ∧ OnCourse m t ∧ hostSide t = hostSide s ∧ stepsLeft t + 1 = stepsLeft s := by
  obtain ⟨t, next⟩ := exec_operation_next h.counters selected
  have host := hostSide_operation selected next
  have len : s.LEN.toNat = m.length := by rw [← h.message, length_message]
  have short : s.LEN.toNat < 2 ^ 61 := len ▸ h.short
  have capacity : nblocks s.LEN.toNat ≤ s.NMAX := len ▸ h.capacity
  obtain ⟨-, nmax, message⟩ := inputs_eq.1 (inputs_of_hostSide host)
  have before : flags s = runningFlags := h.running fun idle => by simp [idle, Phase.operation] at selected
  refine ⟨t, next, ⟨counterInv_operation h.counters selected next, dataInv_operation h.counters h.data selected next,
    h.short, nmax ▸ h.capacity, message.trans h.message, fun busy => ?_, fun idle => ?_⟩, host,
    stepsLeft_operation h.counters short capacity selected next⟩
  · obtain ⟨-, same⟩ | ⟨-, idle, -⟩ := flags_operation h.counters short capacity selected next
    · exact same.trans before
    · exact absurd idle busy
  · obtain ⟨busy, -⟩ | ⟨last, -, done⟩ := flags_operation h.counters short capacity selected next
    · exact absurd idle busy
    · have digest : s.H = sha256 m := h.message ▸ h.data.digest last
      obtain ⟨-, error, errcode, -⟩ := flags_eq_running.1 before
      rw [done, error, errcode, digest]

/-- Turns of the engine are operations until the run is over, and then nothing (70_reset_and_hazards R249). -/
theorem engineTurns_onCourse {m : List Byte} (h : OnCourse m s) (n : Nat) :
    ∃ t, engineTurns n s = .next t ∧ OnCourse m t ∧ hostSide t = hostSide s ∧ stepsLeft t = stepsLeft s - n := by
  induction n generalizing s with
  | zero => exact ⟨s, rfl, h, rfl, rfl⟩
  | succ n ih =>
    cases selected : s.PHASE.operation with
    | none =>
      have idle : s.PHASE = .idle := by cases phase : s.PHASE <;> simp_all [Phase.operation]
      exact ⟨s, engineTurns_of_idle idle _, h, rfl, by simp [stepsLeft_eq_zero.2 idle]⟩
    | some i =>
      obtain ⟨u, operation, course, host, nearer⟩ := onCourse_operation h selected
      obtain ⟨t, turns, course', host', left⟩ := ih course
      refine ⟨t, ?_, course', host'.trans host, by omega⟩
      rw [engineTurns, takeTurn_engine, selected]
      exact (congrArg (andThen · _) operation).trans turns

end Sys2Proof.Laws

/-! Proofs about host programs (30_encoding R100): the accesses before START, the polls of `wait`, the reads after it,
and the whole of `hash`. -/

namespace Sys2Proof.Laws

open Sys2Proof.Machine Sys2Proof.Safety

variable {s t : State}

/-! ### Accesses while the engine is idle -/

/-- An access of a program is exec of the access itself: the host's descriptor decodes to it. -/
theorem hostAccess_eq_exec {i : Instr} (wf : i.WellFormed) {d : BitVec 130} (code : encode i = .host d) (s : State) :
    hostAccess i s = exec i s := by
  have decoded : decodeHost d = i := by
    have identity := decodeOfEncodeIsIdentity i wf
    rw [code] at identity
    exact Except.ok.inj identity
  simp only [hostAccess, code]
  rw [takeTurn_host, decoded]

/-- While the engine is idle an access comes at once, whatever the pace. -/
theorem runProgram_access_of_idle {i : Instr} (wf : i.WellFormed) {d : BitVec 130} (code : encode i = .host d)
    (idle : s.PHASE = .idle) (run : exec i s = .next t) (n : Nat) (pace : List Nat) (p : List HostLine) :
    runProgram (n :: pace) (.access i :: p) s = runProgram pace p t := by
  rw [runProgram_access, engineTurns_of_idle idle, andThen_next, hostAccess_eq_exec wf code, run, andThen_next]

/-- Another message space. -/
def withMsg (s : State) (msg : List Host.Cell) : State := { s with MSG := msg }

/-- WMSG while idle and in range stores the byte (43_host_interface R184). -/
theorem execWmsg_of_idle (idle : s.PHASE = .idle) {j : DWord} (range : j.toNat < 64 * s.NMAX - 9) (b : Byte) :
    exec (.wmsg j b) s = .next (withMsg s (Memory.write s.MSG j.toNat b)) := by
  obtain ⟨-, -, run⟩ | ⟨busy | beyond, -⟩ := execWmsg_cases (s := s) j b
  · exact run
  · exact absurd idle busy
  · omega

/-- Another message length. -/
def withLen (s : State) (len : DWord) : State := { s with LEN := len }

/-- WREG LEN while idle stores the length (43_host_interface R182). -/
theorem execWreg_len_of_idle (idle : s.PHASE = .idle) (v : DWord) : exec (.wreg 2 v) s = .next (withLen s v) := by
  have free : s.busy = false := by simpa using idle
  show execWreg 2 v s = _
  rw [execWreg, if_neg (by decide), if_pos rfl, free]
  rfl

/-- `putmsg` while idle: the bytes stand in MSG from the first index on, and those before it stay. -/
theorem runProgram_putMsgFrom (bytes : List Byte) (first : Nat) (pace rest : List Nat) (p : List HostLine) (s : State)
    (idle : s.PHASE = .idle) (turns : pace.length = bytes.length) (range : first + bytes.length ≤ 64 * s.NMAX - 9)
    (index : first + bytes.length < 2 ^ 64) :
    ∃ msg, runProgram (pace ++ rest) ((putMsgFrom first bytes).map .access ++ p) s =
        runProgram rest p (withMsg s msg) ∧
      (∀ k < bytes.length, bytes[k]? = some ((withMsg s msg).msgByte (first + k))) ∧
      ∀ k < first, (withMsg s msg).msgByte k = s.msgByte k := by
  induction bytes generalizing first pace s with
  | nil =>
    obtain rfl := List.length_eq_zero_iff.1 turns
    exact ⟨s.MSG, rfl, nofun, fun _ _ => rfl⟩
  | cons b bytes ih =>
    obtain ⟨n, pace, rfl⟩ := List.exists_cons_of_length_eq_add_one turns
    simp only [List.length_cons] at turns range index
    have number : (BitVec.ofNat 64 first).toNat = first := Nat.mod_eq_of_lt (by omega)
    have store := execWmsg_of_idle idle (j := BitVec.ofNat 64 first) (by omega) b
    rw [number] at store
    have stored (k : Nat) : (withMsg s (Memory.write s.MSG first b)).msgByte k = if k = first then b else s.msgByte k :=
      msgByte_of_write (s := s) (t := withMsg s _) rfl rfl k
    obtain ⟨msg, run, later, before⟩ := ih (first + 1) pace (withMsg s (Memory.write s.MSG first b)) idle
      (by omega) (show _ ≤ 64 * s.NMAX - 9 by omega) (by omega)
    refine ⟨msg, (runProgram_access_of_idle trivial rfl idle store n _ _).trans run, fun k hk => ?_, fun k hk => ?_⟩
    · cases k with
      | zero => exact congrArg some (((before first (by omega)).trans (stored first)).trans (if_pos rfl)).symm
      | succ k =>
        have position : first + 1 + k = first + (k + 1) := by omega
        have byte := later k (by simpa using hk)
        rw [position] at byte
        exact byte
    · exact ((before k (by omega)).trans (stored k)).trans (if_neg (by omega))

/-- 20_memory R61: which lengths fit a capacity. -/
theorem nblocks_le_iff {n nmax : Nat} (positive : 1 ≤ nmax) : nblocks n ≤ nmax ↔ n ≤ 64 * nmax - 9 := by
  simp only [nblocks, padlen, zpad, kpad]
  omega

/-- START of a message that fits begins its run (43_host_interface R185). -/
theorem onCourse_startCall {m : List Byte} (idle : s.PHASE = .idle) (short : m.length < 2 ^ 61)
    (capacity : nblocks m.length ≤ s.NMAX) (message : s.message = m) :
    OnCourse m s.startCall ∧ s.startCall.PHASE = .lchk ∧ hostSide s.startCall = hostSide s := by
  rw [startCall_of_idle s idle]
  exact ⟨onCourse_of_lchk rfl rfl short capacity message, rfl, rfl⟩

/-- `putmsg` and `setlen` while idle: the message is in place (43_host_interface R180). -/
theorem runProgram_putMsg_setLen {m : List Byte} (idle : s.PHASE = .idle) (short : m.length < 2 ^ 61)
    (room : m.length ≤ 64 * s.NMAX - 9) {pace : List Nat} (turns : pace.length = m.length) (n : Nat) (rest : List Nat)
    (p : List HostLine) :
    ∃ t, runProgram (pace ++ n :: rest) ((putMsg m ++ setLen m.length).map .access ++ p) s = runProgram rest p t ∧
      t.PHASE = .idle ∧ t.message = m ∧ t.NMAX = s.NMAX ∧ t.script = s.script ∧ t.returned = s.returned := by
  have accesses : (putMsg m ++ setLen m.length).map .access ++ p =
      (putMsgFrom 0 m).map .access ++ .access (.wreg 2 (BitVec.ofNat 64 m.length)) :: p := by
    simp [putMsg, setLen]
  obtain ⟨msg, put, stored, -⟩ := runProgram_putMsgFrom m 0 pace (n :: rest)
    (.access (.wreg 2 (BitVec.ofNat 64 m.length)) :: p) s idle turns (by omega) (by omega)
  have idleMsg : (withMsg s msg).PHASE = .idle := idle
  have set := runProgram_access_of_idle (i := .wreg 2 _) (fun call => absurd call.1 (by decide)) rfl idleMsg
    (execWreg_len_of_idle idleMsg (BitVec.ofNat 64 m.length)) n rest p
  refine ⟨withLen (withMsg s msg) (BitVec.ofNat 64 m.length), ?_, idle, ?_, rfl, rfl, rfl⟩
  · rw [accesses, put, set]
  · refine message_eq_of_spells (fun k hk => ?_) (Nat.mod_eq_of_lt (by omega))
    have byte := stored k hk
    rw [Nat.zero_add] at byte
    exact byte

/-- The accesses of `hash` up to START (43_host_interface R180): a run of the message begins. -/
theorem runProgram_hashCall {m : List Byte} (legal : Config.LegalCapacity s.NMAX) (idle : s.PHASE = .idle)
    (short : m.length < 2 ^ 61) (room : m.length ≤ 64 * s.NMAX - 9) {pace : List Nat}
    (turns : pace.length = m.length + 2) (rest : List Nat) (p : List HostLine) :
    ∃ t, runProgram (pace ++ rest) ((hashCall m).map .access ++ p) s = runProgram rest p t ∧ OnCourse m t ∧
      t.PHASE = .lchk ∧ t.script = s.script ∧ t.returned = s.returned := by
  obtain ⟨putPace, n, n', rfl, putTurns⟩ : ∃ a n n', pace = a ++ [n, n'] ∧ a.length = m.length := by
    obtain ⟨n, n', last⟩ := List.length_eq_two.1 (show (pace.drop m.length).length = 2 by simp [turns])
    exact ⟨pace.take m.length, n, n', by rw [← last, List.take_append_drop], by simp [turns]⟩
  obtain ⟨u, inputs, ready, message, nmax, script, returned⟩ := runProgram_putMsg_setLen idle short room putTurns n
    (n' :: rest) (.access .start :: p)
  have start : runProgram (n' :: rest) (.access .start :: p) u = runProgram rest p u.startCall :=
    runProgram_access_of_idle (i := .start) trivial rfl ready rfl n' rest p
  obtain ⟨course, phase, host⟩ := onCourse_startCall ready short (nmax ▸ (nblocks_le_iff legal.1).2 room) message
  simp only [hostSide, Prod.mk.injEq] at host
  obtain ⟨-, -, -, -, script', returned'⟩ := host
  refine ⟨u.startCall, ?_, course, phase, script'.trans script, returned'.trans returned⟩
  rw [← start, ← inputs]
  simp [hashCall]

/-! ### The polls of `wait` -/

/-- Polling a run on its course: each poll before the end reads 1, and the poll after it reads 2 and is the last. -/
theorem runProgram_polls {m : List Byte} (course : OnCourse m s) (busy : s.PHASE ≠ .idle) {during : List Nat}
    (enough : stepsLeft s ≤ during.sum) (after : List Nat) (p : List HostLine) :
    ∃ t rest k, runProgram (during ++ after) (.wait :: p) s = runProgram (rest ++ after) p t ∧ OnCourse m t ∧
      t.PHASE = .idle ∧ t.script = s.script ∧
      t.returned = .word 0x00000002 :: (List.replicate k (.word 0x00000001) ++ s.returned) := by
  induction during generalizing s with
  | nil => exact absurd (stepsLeft_eq_zero.1 (Nat.le_zero.1 enough)) busy
  | cons n during ih =>
    obtain ⟨u, turns, course', host, left⟩ := engineTurns_onCourse course n
    simp only [hostSide, Prod.mk.injEq] at host
    obtain ⟨-, -, -, -, script, returned⟩ := host
    have polled (r : ReadValue) : OnCourse m (u.answer r) := onCourse_withOwn course' _ _ _
    rw [List.cons_append, runProgram_wait, turns, andThen_next]
    by_cases idle : u.PHASE = .idle
    · refine ⟨u.answer (.word u.status), during, 0, ?_, polled _, idle, script, ?_⟩
      · simp [State.busy, idle]
      · rw [answer_returned, status_of_done (course'.ended idle) idle, returned]
        rfl
    · rw [List.sum_cons] at enough
      obtain ⟨t, rest, k, run, ended, idle', script', returned'⟩ :=
        ih (polled (.word u.status)) idle (show stepsLeft u ≤ _ by omega)
      refine ⟨t, rest, k + 1, ?_, ended, idle', script'.trans script, ?_⟩
      · rw [← run]
        simp [State.busy, idle]
      · rw [returned', answer_returned, status_of_running (course'.running idle) idle, returned,
          List.replicate_succ', List.append_assoc]
        rfl

/-! ### The reads after `wait` -/

/-- Reads of registers that have values, while idle: the answers come in order, and nothing else changes. -/
theorem runProgram_reads (registers : List DWord) (values : List ReadValue) (pace : List Nat) (s : State)
    (idle : s.PHASE = .idle) (known : registers.map s.registerValue = values.map some)
    (turns : registers.length ≤ pace.length) :
    runProgram pace (registers.map fun n => .access (.rreg n)) s =
      .next ({ s with returned := values.reverse ++ s.returned }, []) := by
  induction registers generalizing values pace s with
  | nil =>
    obtain rfl := List.map_eq_nil_iff.1 known.symm
    exact runProgram_over pace s
  | cons n registers ih =>
    cases values with
    | nil => simp at known
    | cons r values =>
      obtain ⟨turn, pace, rfl⟩ := List.exists_cons_of_length_pos (Nat.zero_lt_of_lt turns)
      simp only [List.map_cons, List.cons.injEq] at known
      obtain ⟨value, known⟩ := known
      have rest := ih values pace (s.answer r) idle known (by simpa using turns)
      rw [List.map_cons, runProgram_access_of_idle (i := .rreg n) trivial rfl idle
        (execRreg_of_some value), rest]
      simp [State.answer]

/-- 10_state R33: the eight words of D are registers 8 to 15. -/
theorem registerValue_digest {d : Vector Word 8} (done : s.DONE = true) (digest : s.D = some d) (i : Fin 8) :
    s.registerValue (BitVec.ofNat 64 (8 + i)) = some (.word d[i]) := by
  have number : (BitVec.ofNat 64 (8 + i)).toNat = 8 + i := Nat.mod_eq_of_lt (by omega)
  have other (k : DWord) (hk : k.toNat < 8) : BitVec.ofNat 64 (8 + i) ≠ k := by
    rintro rfl
    omega
  rw [State.registerValue, if_neg (other 1 (by decide)), if_neg (other 2 (by decide)), if_neg (other 3 (by decide)),
    if_neg (other 4 (by decide)), number, if_pos (by omega), if_pos done, digest]
  simp [Vector.getD]

/-- The registers `hash` reads once the run is over (30_encoding R100). -/
def resultRegisters : List DWord := 1 :: (List.finRange 8).map fun i => BitVec.ofNat 64 (8 + i.val)

theorem resultRegisters_reads :
    (Instr.rreg 1 :: getDigest).map HostLine.access = resultRegisters.map fun n => .access (.rreg n) := by
  decide

/-- Settles O60: the accesses before START leave a run on its course, the polls last until it is over, and the reads
after them find STATUS and the digest. -/
theorem hashProgramReturnsSha256 : Obligations.HashProgramReturnsSha256 := by
  unfold Obligations.HashProgramReturnsSha256
  intro s m before during after legal idle short room beforeTurns enough afterTurns
  rw [hashProgram, resultRegisters_reads, List.append_assoc]
  obtain ⟨u, call, course, phase, script, returned⟩ := runProgram_hashCall legal idle short room beforeTurns
    (during ++ after) (.wait :: resultRegisters.map fun n => .access (.rreg n))
  have left : stepsLeft u = runSteps (nblocks m.length) := by
    rw [← course.message, length_message]
    simp only [stepsLeft, phase]
  obtain ⟨v, rest, k, polls, course', idle', script', returned'⟩ := runProgram_polls course (by simp [phase])
    (left.trans_le enough) after (resultRegisters.map fun n => .access (.rreg n))
  have ended := course'.ended idle'
  have status := status_of_done ended idle'
  simp only [flags, Prod.mk.injEq] at ended
  obtain ⟨done, -, -, digest⟩ := ended
  have known : resultRegisters.map v.registerValue =
      (ReadValue.word 0x00000002 :: (List.finRange 8).map fun i => .word (sha256 m)[i]).map some := by
    rw [resultRegisters, List.map_cons, List.map_cons, List.map_map, List.map_map]
    refine congrArg₂ List.cons ?_ (List.map_congr_left fun i _ => registerValue_digest done digest i)
    rw [← status]
    rfl
  have reads := runProgram_reads resultRegisters _ (rest ++ after) v idle' known (by simp [resultRegisters]; omega)
  refine ⟨_, k, (call.trans polls).trans reads, idle', done, digest, script'.trans script, ?_⟩
  simp only [returned', returned, List.reverse_cons, List.append_assoc, List.map_reverse]
  rfl

end Sys2Proof.Laws

/-! Proofs about the Padder (40_padder): the length functions of R111, the padded message of R112 and R113, what PSIZE
and PADB do (R115 to R117), and that they compute the function (R118). -/

namespace Sys2Proof.Laws

open Sys2Proof.Machine Sys2Proof.Safety

variable {s t : State}

/-! ### The data invariant along a run -/

/-- The data invariant does not speak of the model's own fields. -/
theorem dataInv_withOwn (data : DataInv s) (script : List Turn) (returned : List ReadValue) (freeCount : Nat) :
    DataInv (withOwn s script returned freeCount) :=
  { data with }

/-- Every host access keeps the data invariant: in a run it only answers, and before a run the buffers may hold
anything. -/
theorem dataInv_host (data : DataInv s) (effect : HostEffect s t) : DataInv t := by
  cases effect with
  | answers returned freeCount => exact dataInv_withOwn data _ _ _
  | setLen idle v => exact dataInv_of_idle idle
  | setMsg idle j index b => exact dataInv_of_idle idle
  | start idle => exact dataInv_iff.2 trivial

/-- Settles O10, by the kind of turn: an idle turn of the engine, an operation, a host access or a reset. -/
theorem stepKeepsDataInvariant : Obligations.StepKeepsDataInvariant := by
  unfold Obligations.StepKeepsDataInvariant
  intro s t control data next
  have counters : CounterInv s.afterTurn := counterInv_withOwn control.counters _ _ _
  have taken : DataInv s.afterTurn := dataInv_withOwn data _ _ _
  obtain ⟨-, -, rfl⟩ | ⟨i, -, selected, run⟩ | ⟨d, -, run⟩ | ⟨-, rfl⟩ := step_next next
  · exact taken
  · exact dataInv_operation counters taken selected run
  · exact dataInv_host taken (hostEffect_of_exec run)
  · exact dataInv_of_idle rfl

/-! ### The length functions -/

/-- 40_padder R111: kpad zeros fill up to 448 bits modulo 512. -/
theorem kpad_fills (n : Nat) : (8 * n + 1 + kpad n) % 512 = 448 := by
  rw [kpad]
  omega

/-- 40_padder R111: "the unique k in 0 .. 511". -/
theorem eq_kpad_of_fills {n k : Nat} (range : k < 512) (fills : (8 * n + 1 + k) % 512 = 448) : k = kpad n := by
  have := kpad_lt n
  have := kpad_fills n
  omega

/-- 40_padder R111 and R114: after the byte 0x80, the zero bits are seven of that byte and whole zero bytes. -/
theorem kpad_eq (n : Nat) : kpad n = 8 * zpad n + 7 := by
  have := kpad_fills n
  rw [zpad]
  omega

/-- 40_padder R111: zpad(n) = (55 − n) mod 64. -/
theorem zpad_eq (n : Nat) : (zpad n : Int) = (55 - (n : Int)) % 64 := by
  simp only [zpad, kpad]
  omega

/-- 40_padder R111: the closed form of the block count. -/
theorem nblocks_eq (n : Nat) : nblocks n = (n + 8) / 64 + 1 := by
  have := zpad_eq n
  rw [nblocks, padlen]
  omega

/-- Settles O44: the closed forms give the bounds. -/
theorem lengthFunctions : Obligations.LengthFunctions := by
  unfold Obligations.LengthFunctions
  intro n fits
  have bits := kpad_eq n
  have length := padlen_eq n
  have blocks := nblocks_eq n
  have bound := nblocks_le fits
  refine ⟨rfl, kpad_lt n, kpad_fills n, fun k => eq_kpad_of_fills, rfl, rfl, rfl, by omega, bits, zpad_eq n, by omega,
    blocks, ?_, by omega, bound, fun nmax => nblocks_le_iff⟩
  rw [bitlen]
  omega

/-! ### The padded message -/

/-- Settles O45: the length field is what follows the front, and the message is at its head. -/
theorem paddedMessageInvariants : Obligations.PaddedMessageInvariants := by
  unfold Obligations.PaddedMessageInvariants
  intro m _
  have length := padlen_eq m.length
  have positive := nblocks_pos m.length
  refine ⟨length_pad m, by omega, ?_, rfl, positive, by omega, ?_, getElem?_pad_one m⟩
  · rw [pad_eq, ← length_padFront, List.drop_left]
    rfl
  · rw [pad_eq, padFront, List.append_assoc, List.append_assoc, List.take_left]

/-- A byte of a 64-bit value as a number (20_memory R66). -/
theorem toNat_byte_of_shift (x : DWord) (k : Nat) : ((x >>> k).setWidth 8).toNat = x.toNat / 2 ^ k % 256 := by
  rw [BitVec.toNat_setWidth, BitVec.toNat_ushiftRight, Nat.shiftRight_eq_div_pow]

/-- Settles O46: one lemma for each of the four cases of R112. -/
theorem paddedMessageBytes : Obligations.PaddedMessageBytes := by
  unfold Obligations.PaddedMessageBytes
  intro m fits
  refine ⟨rfl, fun j hj => ?_⟩
  have byte : (pad m)[j]? = some ((pad m)[j]'(by rwa [length_pad])) := List.getElem?_eq_getElem _
  refine ⟨_, byte, fun message => ?_, ?_, fun after zero => ?_, fun field => ?_⟩
  · rw [← getElem?_pad_message m message, byte]
  · rintro rfl
    exact Option.some.inj (byte.symm.trans (getElem?_pad_one m))
  · exact Option.some.inj (byte.symm.trans (getElem?_pad_zero m after zero))
  · rw [Option.some.inj (byte.symm.trans (getElem?_pad_bits m field hj)), toNat_byte_of_shift, toNat_bitlen fits,
      bitlen]

/-! ### What PSIZE and PADB do -/

/-- 40_padder R115: a PSIZE of a message that fits leaves exact sizes, and sets J and PHASE besides. -/
theorem sized_of_execPsize (fits : s.LEN.toNat < 2 ^ 61) (capacity : nblocks s.LEN.toNat ≤ s.NMAX) :
    ∃ t, execPsize s = .next t ∧ Sized t ∧
      t = { s with L := t.L, KPAD := t.KPAD, PLEN := t.PLEN, N := t.N, J := 0, PHASE := .padb } := by
  obtain ⟨full, -⟩ | ⟨-, run⟩ := execPsize_cases (s := s)
  · omega
  · exact ⟨_, run, (counterAt_psize fits run).1, rfl⟩

/-- Settles O24: PSIZE raises the error, or goes on with exact sizes. -/
theorem psizeEffects : Obligations.PsizeEffects := by
  unfold Obligations.PsizeEffects
  intro s fits
  refine ⟨fun full => ?_, fun capacity => ?_⟩
  · obtain ⟨-, run⟩ | ⟨capacity, -⟩ := execPsize_cases (s := s)
    · exact run
    · omega
  · obtain ⟨t, run, sized, frame⟩ := sized_of_execPsize fits capacity
    have len : t.LEN = s.LEN := by rw [frame]
    exact ⟨t, run, frame, len ▸ sized.bits, len ▸ sized.zeros, len ▸ sized.padded, len ▸ sized.blocks⟩

/-- 40_padder R116: below LEN the byte is the message's. -/
theorem padByte_message (message : s.J.toNat < s.LEN.toNat) : s.padByte = s.msgByte s.J.toNat := if_pos message

/-- 40_padder R116: at LEN the byte is 0x80. -/
theorem padByte_one (one : s.J.toNat = s.LEN.toNat) : s.padByte = 0x80 := by
  rw [State.padByte, if_neg (by omega), if_pos one]

/-- 40_padder R116: between 0x80 and the length field the byte is zero. -/
theorem padByte_zero (after : s.LEN.toNat < s.J.toNat) (zero : s.J.toNat + 8 < s.PLEN.toNat) : s.padByte = 0x00 := by
  rw [State.padByte, if_neg (by omega), if_neg (by omega), if_pos zero]

/-- 40_padder R116: in the last eight bytes the byte is one of L, most significant first. -/
theorem toNat_padByte_bits (after : s.LEN.toNat < s.J.toNat) (field : s.PLEN.toNat ≤ s.J.toNat + 8)
    (padding : s.J.toNat < s.PLEN.toNat) :
    s.padByte.toNat = s.L.toNat / 2 ^ (8 * (s.PLEN.toNat - 1 - s.J.toNat)) % 256 := by
  rw [State.padByte, if_neg (by omega), if_neg (by omega), if_neg (by omega), if_pos padding, toNat_byte_of_shift]

/-- Settles O25: the byte is that of its case, and the store leaves every other byte alone. -/
theorem padbEffects : Obligations.PadbEffects := by
  unfold Obligations.PadbEffects
  intro s padding index message
  exact ⟨_, s.padByte, execPadb_next.2 ⟨index, message, rfl⟩, rfl, padByte_message, padByte_one, padByte_zero,
    fun after field => toNat_padByte_bits after field padding, pbufByte_of_write rfl rfl,
    toNat_add_one padding s.PLEN.isLt, fun last => if_pos last, fun more => if_neg more⟩

/-- Settles O39: PSIZE that goes on stores its sizes, and PADB stores at J, which is below PLEN. -/
theorem padderWritesOnlyItsOwn : Obligations.PadderWritesOnlyItsOwn := by
  unfold Obligations.PadderWritesOnlyItsOwn
  intro s t
  constructor
  · intro next phase
    obtain ⟨-, run⟩ | ⟨-, run⟩ := execPsize_cases (s := s) <;> cases run.symm.trans next
    · cases phase
    · rfl
  · intro next padding
    obtain ⟨-, -, result⟩ := execPadb_next.1 next
    have stored (k : Nat) : t.pbufByte k = if k = s.J.toNat then s.padByte else s.pbufByte k :=
      pbufByte_of_write (by rw [result]) (by rw [result]) k
    exact ⟨by rw [result], fun k beyond => (stored k).trans (if_neg (by omega))⟩

/-! ### The Padder computes pad -/

/-- A run of the message m in which the engine has every turn, the script being empty. -/
structure EngineAlone (m : List Byte) (s : State) : Prop where
  script : s.script = []
  message : s.message = m
  counters : CounterInv s
  data : DataInv s

/-- With an empty script a step is the operation of the phase. -/
theorem step_of_operation {i : Instr} (script : s.script = []) (selected : s.PHASE.operation = some i) :
    step s = exec i s := by
  have taken : s.afterTurn = s := by
    cases s
    cases script
    rfl
  rw [step_eq, turn_of_nil script, selected, taken]

/-- The engine's next step is performed and leaves the engine alone in its run. -/
theorem engineAlone_step {m : List Byte} {i : Instr} (alone : EngineAlone m s) (selected : s.PHASE.operation = some i) :
    ∃ t, step s = .next t ∧ exec i s = .next t ∧ EngineAlone m t := by
  obtain ⟨t, run⟩ := exec_operation_next alone.counters selected
  obtain ⟨-, -, message⟩ := inputs_eq.1 (inputs_of_hostSide (hostSide_operation selected run))
  exact ⟨t, (step_of_operation alone.script selected).trans run, run,
    (script_operation selected run).trans alone.script, message.trans alone.message,
    counterInv_operation alone.counters selected run, dataInv_operation alone.counters alone.data selected run⟩

/-- From PADB each step pads one byte, up to PLEN, where the phase is PCHK (40_padder R116). -/
theorem runsTo_pchk {m : List Byte} {n : Nat} (alone : EngineAlone m s) (phase : s.PHASE = .padb)
    (left : s.J.toNat + n = s.PLEN.toNat) : ∃ t, RunsTo n s t ∧ t.PHASE = .pchk ∧ EngineAlone m t := by
  have padding := alone.counters.padding phase
  induction n generalizing s with
  | zero => omega
  | succ n ih =>
    obtain ⟨u, turn, run, alone'⟩ := engineAlone_step (i := .padb) alone (by rw [phase]; rfl)
    obtain ⟨-, -, result⟩ := execPadb_next.1 run
    have count : u.J.toNat = s.J.toNat + 1 := by rw [result]; exact toNat_add_one padding s.PLEN.isLt
    have length : u.PLEN = s.PLEN := by rw [result]
    have next : u.PHASE = if s.J.toNat + 1 = s.PLEN.toNat then .pchk else s.PHASE := by rw [result]
    by_cases last : s.J.toNat + 1 = s.PLEN.toNat
    · obtain rfl : n = 0 := by omega
      exact ⟨u, runsTo_succ.2 ⟨u, turn, rfl⟩, next.trans (if_pos last), alone'⟩
    · have again : u.PHASE = .padb := (next.trans (if_neg last)).trans phase
      obtain ⟨t, rest, ended⟩ := ih alone' again (by rw [length]; omega) (alone'.counters.padding again)
      exact ⟨t, runsTo_succ.2 ⟨u, turn, rest⟩, ended⟩

/-- Settles O51: PSIZE begins the padding at J = 0, and at its end the invariants say what is in the registers and in
PBUF. -/
theorem padderComputesPad : Obligations.PadderComputesPad := by
  unfold Obligations.PadderComputesPad
  intro s script phase fits capacity
  have begun : EngineAlone s.message s :=
    ⟨script, rfl, counterInv_iff.2 (by rw [phase]; exact fits), dataInv_iff.2 (by rw [phase]; trivial)⟩
  obtain ⟨u, turn, run, alone⟩ := engineAlone_step (i := .psize) begun (by rw [phase]; rfl)
  obtain ⟨v, run', sized, frame⟩ := sized_of_execPsize fits capacity
  obtain rfl : u = v := Host.Outcome.next.inj (run.symm.trans run')
  have padding : u.PHASE = .padb := by rw [frame]
  have start : u.J.toNat + padlen s.LEN.toNat = u.PLEN.toNat := by
    rw [sized.padded, frame]
    exact Nat.zero_add _
  obtain ⟨t, rest, checked, ended⟩ := runsTo_pchk alone padding start
  have sized' : Sized t := ended.counters.sized (by simp [checked])
  have len : t.LEN.toNat = s.LEN.toNat := by rw [← length_message, ended.message, length_message]
  have padded := ended.data.padded (by simp [checked])
  rw [ended.message] at padded
  refine ⟨t, ?_, checked, len ▸ sized'.padded, len ▸ sized'.blocks, len ▸ sized'.bits, padded⟩
  rw [Nat.add_comm]
  exact runsTo_succ.2 ⟨u, turn, rest⟩

end Sys2Proof.Laws

/-! Proofs about the Block Parser (41_block_parser): what PCHK and PARSEW do (R132, R133, R136), that parsing is
big-endian and a bijection (R131), and that the operations compute the function (R135). -/

namespace Sys2Proof.Laws

open Sys2Proof.Machine Sys2Proof.Safety

variable {s t : State}

/-! ### What PCHK and PARSEW do -/

/-- 41_block_parser R132: a PCHK of whole blocks, as many as N, starts the walk of PARSEW at J = 0. -/
theorem execPchk_of_whole (whole : s.PLEN.toNat = 64 * s.N.toNat) :
    execPchk s = .next { s with J := 0, PHASE := .parsew } := by
  obtain ⟨bad, -⟩ | ⟨-, -, run⟩ := execPchk_cases (s := s)
  · omega
  · exact run

/-- Settles O26: PCHK raises the error, or goes on. -/
theorem pchkEffects : Obligations.PchkEffects := by
  unfold Obligations.PchkEffects
  intro s
  refine ⟨fun bad => ?_, fun whole blocks => execPchk_of_whole (by omega)⟩
  obtain ⟨-, run⟩ | ⟨whole, blocks, -⟩ := execPchk_cases (s := s)
  · exact run
  · omega

/-- Settles O13: the sizes of a run are those of whole blocks. -/
theorem pchkNeverFailsInARun : Obligations.PchkNeverFailsInARun := by
  unfold Obligations.PchkNeverFailsInARun
  intro s control phase
  have sized : Sized s := control.counters.sized (by simp [phase])
  exact execPchk_of_whole (by rw [sized.padded, sized.blocks, padlen_eq])

/-- Settles O27: the word is big-endian, and the store leaves every other word alone. -/
theorem parsewEffects : Obligations.ParsewEffects := by
  unfold Obligations.ParsewEffects
  intro s legal _ index
  obtain ⟨-, most⟩ := legal
  exact ⟨_, s.parsedWord, execParsew_next.2 ⟨by omega, index, rfl⟩, rfl, be32_toNat _ _ _ _,
    wbufWord_of_write rfl rfl, toNat_add_one index (by omega), fun last => if_pos last, fun more => if_neg more⟩

/-! ### Parsing is a bijection -/

/-- 20_memory R65: a word is the big-endian word of its four bytes. -/
theorem be32_wordBytes (w : Word) :
    be32 (w.extractLsb' 24 8) (w.extractLsb' 16 8) (w.extractLsb' 8 8) (w.extractLsb' 0 8) = w := by
  rw [← BitVec.toNat_inj, be32_toNat]
  simp only [BitVec.extractLsb'_toNat, Nat.shiftRight_eq_div_pow]
  omega

/-- 20_memory R65: the four bytes of a big-endian word are those it is composed of. -/
theorem wordBytes_be32 (b0 b1 b2 b3 : Byte) : wordBytes (be32 b0 b1 b2 b3) = [b0, b1, b2, b3] := by
  have value := be32_toNat b0 b1 b2 b3
  have byte {b : Byte} (k : Nat) (h : (be32 b0 b1 b2 b3).toNat / 2 ^ k % 2 ^ 8 = b.toNat) :
      (be32 b0 b1 b2 b3).extractLsb' k 8 = b := by
    rw [← BitVec.toNat_inj, BitVec.extractLsb'_toNat, Nat.shiftRight_eq_div_pow, h]
  rw [wordBytes, byte (b := b0) 24 (by omega), byte (b := b1) 16 (by omega), byte (b := b2) 8 (by omega),
    byte (b := b3) 0 (by omega)]

/-- 41_block_parser R131: the bytes of a sequence of words parse to the words. -/
theorem parse_flatMap_wordBytes (ws : List Word) : parse (ws.flatMap wordBytes) = ws := by
  induction ws with
  | nil => rfl
  | cons w ws ih =>
    rw [List.flatMap_cons, parse_append ⟨1, rfl⟩, ih, wordBytes, parse, be32_wordBytes]
    rfl

/-- 41_block_parser R131: whole groups of four bytes are the bytes of the words they parse to. -/
theorem flatMap_wordBytes_parse : ∀ {p : List Byte}, 4 ∣ p.length → (parse p).flatMap wordBytes = p
  | [], _ => rfl
  | [_], whole | [_, _], whole | [_, _, _], whole => absurd whole (by simp)
  | b0 :: b1 :: b2 :: b3 :: rest, whole => by
    have whole' : 4 ∣ rest.length := by simpa using whole
    rw [parse, List.flatMap_cons, wordBytes_be32, flatMap_wordBytes_parse whole']
    rfl

/-- A list has its own elements. -/
theorem spells_getD {α : Type} (l : List α) (x : α) : Spells l (l.getD · x) l.length := by
  intro k hk
  simp [hk]

/-- Settles O47: the words are big-endian, and `wordBytes` of each word inverts `parse`. -/
theorem parseIsBigEndianAndBijective : Obligations.ParseIsBigEndianAndBijective := by
  unfold Obligations.ParseIsBigEndianAndBijective
  refine fun n => ⟨fun p length => ⟨?_, fun w hw => ?_⟩, fun ws length => ?_⟩
  · rw [length_parse]
    omega
  · have bytes : Spells p (p.getD · 0) (4 * w + 4) := fun k hk => spells_getD p 0 k (by omega)
    exact ⟨_, _, _, _, _, bytes _ (by omega), bytes _ (by omega), bytes _ (by omega), bytes _ (by omega),
      getElem?_parse bytes, be32_toNat _ _ _ _⟩
  · refine ⟨ws.flatMap wordBytes, ?_, parse_flatMap_wordBytes ws, fun q hq parsed => ?_⟩
    · rw [length_flatMap_wordBytes]
      omega
    · rw [← parsed, flatMap_wordBytes_parse (by omega)]

/-! ### The Block Parser computes parse -/

/-- The Block Parser at work on the bytes p, the engine having every turn: the words below J are parsed (41_block_parser
R135), and behind the last one the phase is HINIT (R133). -/
structure Parsing (p : List Byte) (s : State) : Prop where
  script : s.script = []
  phase : s.PHASE = if s.J.toNat = 16 * s.N.toNat then .hinit else .parsew
  capacity : s.N.toNat ≤ s.NMAX
  length : s.PLEN.toNat = 64 * s.N.toNat
  padded : Spells p s.pbufByte s.PLEN.toNat
  parsed : Spells (parse p) s.wbufWord s.J.toNat

/-- What the Block Parser reads and leaves as it is (41_block_parser R135). -/
def parserInput (s : State) : List Host.Cell × DWord × DWord := (s.PBUF, s.PLEN, s.N)

/-- Below 16·N the next step is a PARSEW, which parses word J. -/
theorem parsing_step {p : List Byte} (h : Parsing p s) (more : s.J.toNat < 16 * s.N.toNat) :
    ∃ t, step s = .next t ∧ t.J.toNat = s.J.toNat + 1 ∧ parserInput t = parserInput s ∧ Parsing p t := by
  obtain ⟨script, phase, capacity, length, padded, parsed⟩ := h
  have parsew : s.PHASE = .parsew := phase.trans (if_neg more.ne)
  have count : (s.J + 1).toNat = s.J.toNat + 1 := toNat_add_one (bound := s.PLEN.toNat) (by omega) s.PLEN.isLt
  have word := getElem?_parse_parsedWord padded (by omega)
  have run := (execParsew_next (s := s)).2 ⟨by omega, by omega, rfl⟩
  refine ⟨_, (step_of_operation (i := .parsew) script (by rw [parsew]; rfl)).trans run, count, rfl,
    script, ?_, capacity, length, padded, parsed.store word count fun k _ => wbufWord_of_write (by rfl) (by rfl) k⟩
  simp only [parsew, count]

/-- Each step parses one word, up to 16·N, where the phase is HINIT. -/
theorem runsTo_hinit {p : List Byte} {n : Nat} (h : Parsing p s) (left : s.J.toNat + n = 16 * s.N.toNat) :
    ∃ t, RunsTo n s t ∧ t.PHASE = .hinit ∧ Spells (parse p) t.wbufWord (16 * s.N.toNat) ∧
      parserInput t = parserInput s := by
  induction n generalizing s with
  | zero => exact ⟨s, rfl, h.phase.trans (if_pos left), left ▸ h.parsed, rfl⟩
  | succ n ih =>
    obtain ⟨u, turn, count, input, h'⟩ := parsing_step h (by omega)
    have blocks : u.N = s.N := congrArg (·.2.2) input
    obtain ⟨t, rest, phase, words, input'⟩ := ih h' (by rw [blocks]; omega)
    exact ⟨t, runsTo_succ.2 ⟨u, turn, rest⟩, phase, blocks ▸ words, input'.trans input⟩

/-- Settles O52: PCHK begins the parsing at J = 0, and PARSEW goes on word by word. -/
theorem parserComputesParse : Obligations.ParserComputesParse := by
  unfold Obligations.ParserComputesParse
  intro s p script phase length positive capacity _ padded
  have turn := (step_of_operation (i := .pchk) script (by rw [phase]; rfl)).trans (execPchk_of_whole length)
  have unfinished : 0 ≠ 16 * s.N.toNat := by omega
  have begun : Parsing p { s with J := 0, PHASE := .parsew } :=
    ⟨script, (if_neg unfinished).symm, capacity, length, padded, spells_zero _ _⟩
  obtain ⟨t, rest, ended, words, input⟩ := runsTo_hinit begun (Nat.zero_add _)
  simp only [parserInput, Prod.mk.injEq] at input
  refine ⟨t, ?_, ended, words, input⟩
  rw [Nat.add_comm]
  exact runsTo_succ.2 ⟨_, turn, rest⟩

end Sys2Proof.Laws

/-! Proofs about the Compressor (42_compressor): the logical functions of R143, what each operation does and leaves alone
(R144 to R151, R155), the recurrences of the reference functions (R156, R157), and that the operations compute the
function (R158). -/

namespace Sys2Proof.Laws

open Sys2Proof.Machine Sys2Proof.Safety

variable {s t : State} {ws : List Word} {n : Nat}

/-! ### The logical functions -/

/-- 42_compressor R143: "bit i is y[i] where x[i] = 1, z[i] where x[i] = 0". -/
theorem getLsbD_CH (x y z : Word) {i : Nat} (hi : i < 32) :
    (CH x y z).getLsbD i = if x.getLsbD i then y.getLsbD i else z.getLsbD i := by
  simp only [CH, BitVec.getLsbD_xor, BitVec.getLsbD_and, BitVec.getLsbD_not, hi]
  cases x.getLsbD i <;> simp

/-- 42_compressor R143: "bit i is the majority of x[i], y[i], z[i]". -/
theorem getLsbD_MAJ (x y z : Word) (i : Nat) : (MAJ x y z).getLsbD i =
    decide (2 ≤ (x.getLsbD i).toNat + (y.getLsbD i).toNat + (z.getLsbD i).toNat) := by
  have majority : ∀ a b c : Bool,
      ((a && b) ^^ (a && c) ^^ (b && c)) = decide (2 ≤ a.toNat + b.toNat + c.toNat) := by decide
  simp only [MAJ, BitVec.getLsbD_xor, BitVec.getLsbD_and, majority]

/-- 42_compressor R143: all ones choose the second argument. -/
theorem CH_ones (y z : Word) : CH 0xFFFFFFFF y z = y := by
  have ones : (0xFFFFFFFF : Word) = BitVec.allOnes 32 := rfl
  rw [CH, ones, BitVec.allOnes_and, BitVec.not_allOnes, BitVec.zero_and, BitVec.xor_zero]

/-- 42_compressor R143: all zeros choose the third argument. -/
theorem CH_zero (y z : Word) : CH 0 y z = z := by
  have zero : (0 : Word) = 0#32 := rfl
  rw [CH, zero, BitVec.zero_and, BitVec.not_zero, BitVec.allOnes_and, BitVec.zero_xor]

/-- 42_compressor R143: two equal arguments are the majority. -/
theorem MAJ_self (x z : Word) : MAJ x x z = x := by
  rw [MAJ, BitVec.and_self, BitVec.xor_assoc, BitVec.xor_self, BitVec.xor_zero]

/-- Settles O43: CH and MAJ bit by bit, and the corner values on all words by the lemmas above, on fixed words by
computing them. -/
theorem logicalFunctions : Obligations.LogicalFunctions := by
  unfold Obligations.LogicalFunctions
  refine ⟨fun x => ⟨rfl, rfl, rfl, rfl⟩, fun x y z => ⟨rfl, rfl, fun i hi => ⟨getLsbD_CH x y z hi, getLsbD_MAJ x y z i⟩⟩,
    ?_, ?_, ?_, fun x y z => ⟨CH_ones y z, CH_zero y z, MAJ_self x z⟩⟩
  · decide
  · decide
  · decide

/-! ### What the operations do -/

/-- The index T after a SCHED or a ROUND is exact (00_scope R10). -/
theorem toNat_T_add_one (index : s.T.toNat < 64) : (s.T + 1).toNat = s.T.toNat + 1 := toNat_add_one index (by decide)

/-- Settles O28: H_INIT is written out in the statement. -/
theorem hinitEffects : Obligations.HinitEffects := by
  unfold Obligations.HinitEffects
  exact fun s => rfl

/-- 42_compressor R145: below 16 the word SCHED writes is loaded from WBUF. -/
theorem schedWord_load (load : s.T.toNat < 16) : s.schedWord = s.wbufWord (16 * s.I.toNat + s.T.toNat) := if_pos load

/-- 42_compressor R145: from 16 on the word SCHED writes is expanded from four taps of W. -/
theorem schedWord_expand (expand : 16 ≤ s.T.toNat) :
    s.schedWord = SIG1 (s.wWord (s.T.toNat - 2)) + s.wWord (s.T.toNat - 7) + SIG0 (s.wWord (s.T.toNat - 15)) +
      s.wWord (s.T.toNat - 16) := if_neg expand.not_gt

/-- Settles O29: the word is loaded or expanded, and the store leaves every other element of W alone. -/
theorem schedEffects : Obligations.SchedEffects := by
  unfold Obligations.SchedEffects
  intro s index load
  exact ⟨_, s.schedWord, execSched_next.2 ⟨index, load, rfl⟩, rfl, schedWord_load, schedWord_expand, wWord_of_set rfl,
    toNat_T_add_one index, fun last => if_pos (by omega), fun more => if_neg (by omega)⟩

/-- Settles O30. -/
theorem varsEffects : Obligations.VarsEffects := by
  unfold Obligations.VarsEffects
  exact fun s => ⟨_, rfl, rfl, rfl, rfl, rfl, rfl, rfl, rfl, rfl, rfl⟩

/-- Settles O31: the rows of K by reading them off the table, and ROUND by what it does when its index exists. -/
theorem roundEffects : Obligations.RoundEffects := by
  unfold Obligations.RoundEffects
  refine ⟨⟨rfl, rfl, rfl, rfl, rfl, rfl, rfl, rfl⟩, fun s index => ?_⟩
  exact ⟨_, roundT1 s.v (kWord s.T.toNat) (s.wWord s.T.toNat), roundT2 s.v, execRound_next.2 ⟨index, rfl⟩, rfl, rfl, rfl,
    rfl, rfl, rfl, rfl, rfl, rfl, rfl, rfl, toNat_T_add_one index, fun last => if_pos (by omega),
    fun more => if_neg (by omega)⟩

/-- Settles O32: T and PHASE depend on whether there is one more block. -/
theorem chainEffects : Obligations.ChainEffects := by
  unfold Obligations.ChainEffects
  exact fun s => ⟨_, rfl, rfl, rfl, rfl, rfl, rfl, rfl, rfl, rfl, rfl, fun more => ⟨if_pos more, if_pos more⟩,
    fun last => ⟨if_neg last.not_gt, if_neg last.not_gt⟩⟩

/-- Settles O33. -/
theorem finishEffects : Obligations.FinishEffects := by
  unfold Obligations.FinishEffects
  exact fun s => rfl

/-- Settles O40, operation by operation: each next state is the old one with some of the Compressor's fields replaced,
and only FINISH replaces D and DONE. -/
theorem compressorWritesOnlyItsOwn : Obligations.CompressorWritesOnlyItsOwn := by
  unfold Obligations.CompressorWritesOnlyItsOwn
  intro i s t own next
  simp only [List.mem_cons, List.not_mem_nil, or_false] at own
  obtain rfl | rfl | rfl | rfl | rfl | rfl := own
  case inr.inl =>
    obtain ⟨-, -, rfl⟩ := execSched_next.1 next
    exact ⟨rfl, fun _ => ⟨rfl, rfl⟩⟩
  case inr.inr.inr.inl =>
    obtain ⟨-, rfl⟩ := execRound_next.1 next
    exact ⟨rfl, fun _ => ⟨rfl, rfl⟩⟩
  case inr.inr.inr.inr.inr =>
    cases next
    exact ⟨rfl, fun other => absurd rfl other⟩
  all_goals
    cases next
    exact ⟨rfl, fun _ => ⟨rfl, rfl⟩⟩

/-! ### The reference functions -/

/-- 42_compressor R156: "compress_block(S, M)[j] = S[j] + rounds(S, M)[j]". -/
theorem getElem_compressBlock (h : Vector Word 8) (m : List Word) (j : Fin 8) :
    (compressBlock h m)[j] = h[j] + (roundsUpTo h m 64)[j] := by
  rw [compressBlock]
  exact Vector.getElem_zipWith j.isLt

/-- Settles O50: the schedule by the lemmas about its words, the other recurrences by the definitions. -/
theorem referenceRecurrences : Obligations.ReferenceRecurrences := by
  unfold Obligations.ReferenceRecurrences
  refine ⟨fun m length => ⟨length_schedule length, fun t => getElem?_schedule_load length, fun t new ht => ?_⟩,
    fun h m => ⟨rfl, fun _ _ => rfl, getElem_compressBlock h m⟩, fun v k w => ⟨_, _, rfl, rfl, rfl⟩,
    fun ws => ⟨rfl, fun _ => rfl, fun _ => rfl⟩, fun m => by rw [sha256], fun s => ⟨length_message s, spells_message s⟩⟩
  have words : Spells (schedule m) ((schedule m).getD · 0) t := fun k hk =>
    spells_getD (schedule m) 0 k (by rw [length_schedule length]; omega)
  exact (getElem?_schedule_expand length words new ht :)

/-! ### The Compressor computes compress -/

/-- The schedule of block i of the words ws (42_compressor R156, 41_block_parser R134). -/
def scheduleOf (ws : List Word) (i : Nat) : List Word := schedule (blockWords ws i)

/-- What each phase of the compression of ws finds: where I and T are, how much of the schedule of block I is in W, and
how many rounds of it the working variables have behind them (42_compressor R158). -/
def CompressingAt (ws : List Word) (s : State) : Phase → Prop
  | .sched => s.I.toNat < s.N.toNat ∧ s.T.toNat < 64 ∧ Spells (scheduleOf ws s.I.toNat) s.wWord s.T.toNat
  | .vars => s.I.toNat < s.N.toNat ∧ Spells (scheduleOf ws s.I.toNat) s.wWord 64
  | .round => s.I.toNat < s.N.toNat ∧ s.T.toNat < 64 ∧ Spells (scheduleOf ws s.I.toNat) s.wWord 64 ∧
      s.v.toVector = roundsUpTo s.H (blockWords ws s.I.toNat) s.T.toNat
  | .chain => s.I.toNat < s.N.toNat ∧ s.v.toVector = roundsUpTo s.H (blockWords ws s.I.toNat) 64
  | .finish => s.I.toNat = s.N.toNat
  | _ => False

/-- The Compressor at work on n blocks of the words ws, the engine having every turn: H is the chaining value before
block I (42_compressor R158). -/
structure Compressing (ws : List Word) (n : Nat) (s : State) : Prop where
  script : s.script = []
  blocks : s.N.toNat = n
  capacity : s.N.toNat ≤ s.NMAX
  length : ws.length = 16 * s.N.toNat
  parsed : Spells ws s.wbufWord (16 * s.N.toNat)
  chained : s.H = chainState ws s.I.toNat
  now : CompressingAt ws s s.PHASE

/-- How many steps the Compressor has taken since its first SCHED: 64 SCHED, VARS, 64 ROUND and CHAIN for each block
(43_host_interface R191). -/
def position (s : State) : Nat :=
  130 * s.I.toNat + match s.PHASE with
    | .sched => s.T.toNat
    | .vars => 64
    | .round => 65 + s.T.toNat
    | .chain => 129
    | _ => 0

/-- The next step is performed, stays in the compression and moves on by one. -/
def Advances (ws : List Word) (n : Nat) (s : State) : Prop :=
  ∃ t, step s = .next t ∧ Compressing ws n t ∧ position t = position s + 1

/-- An operation of the Compressor leaves the words and the block count alone (42_compressor R151), so it advances if it
leaves the chaining value and what the next phase finds. -/
theorem advances_of_exec {i : Instr} (h : Compressing ws n s) (selected : s.PHASE.operation = some i)
    (own : i ∈ [Instr.hinit, .sched, .vars, .round, .chain, .finish]) (run : exec i s = .next t)
    (chained : t.H = chainState ws t.I.toNat) (now : CompressingAt ws t t.PHASE)
    (moved : position t = position s + 1) : Advances ws n s := by
  obtain ⟨script, blocks, capacity, length, parsed, -, -⟩ := h
  obtain ⟨frame, -⟩ := compressorWritesOnlyItsOwn i s t own run
  have sameN : t.N = s.N := by rw [frame]
  have sameNMAX : t.NMAX = s.NMAX := by rw [frame]
  have sameWords (w : Nat) : t.wbufWord w = s.wbufWord w := wbufWord_congr (by rw [frame]) (by rw [frame]) w
  refine ⟨t, (step_of_operation script selected).trans run,
    ⟨by rw [frame, script], sameN ▸ blocks, sameN ▸ sameNMAX ▸ capacity, sameN ▸ length, fun w hw => ?_, chained, now⟩,
    moved⟩
  rw [sameWords, parsed w (sameN ▸ hw)]

/-- 42_compressor R145: the word SCHED writes is word T of the schedule of block I. -/
theorem getElem?_scheduleOf_schedWord (length : ws.length = 16 * s.N.toNat) (block : s.I.toNat < s.N.toNat)
    (index : s.T.toNat < 64) (parsed : Spells ws s.wbufWord (16 * s.N.toNat))
    (words : Spells (scheduleOf ws s.I.toNat) s.wWord s.T.toNat) :
    (scheduleOf ws s.I.toNat)[s.T.toNat]? = some s.schedWord := by
  have sixteen := length_blockWords length block
  by_cases load : s.T.toNat < 16
  · rw [schedWord_load load, scheduleOf, getElem?_schedule_load sixteen load, getElem?_blockWords _ _ load]
    exact parsed _ (by omega)
  · rw [schedWord_expand (by omega)]
    exact getElem?_schedule_expand sixteen words (by omega) index

/-- SCHED stores one more word of the schedule, and hands over to VARS with all 64. -/
theorem advances_sched (h : Compressing ws n s) (phase : s.PHASE = .sched) : Advances ws n s := by
  have now := h.now
  rw [phase] at now
  obtain ⟨block, index, words⟩ := now
  have capacity := h.capacity
  have word := getElem?_scheduleOf_schedWord h.length block index h.parsed words
  have count := toNat_T_add_one index
  obtain ⟨t, run⟩ : ∃ t, execSched s = .next t := ⟨_, execSched_next.2 ⟨index, fun _ => by omega, rfl⟩⟩
  obtain ⟨-, -, result⟩ := execSched_next.1 run
  have stored {m : Nat} (hm : m = s.T.toNat + 1) : Spells (scheduleOf ws s.I.toNat) t.wWord m :=
    words.store word hm fun k hk => wWord_of_set (by rw [result]) k (by omega)
  have advances := advances_of_exec h (i := .sched) (by rw [phase]; rfl) (by simp) run
  subst result
  by_cases last : s.T.toNat + 1 = 64
  · simp only [if_pos last, position, phase] at advances
    exact advances h.chained ⟨block, stored last.symm⟩ (by omega)
  · have inside : (s.T + 1).toNat < 64 := by omega
    simp only [if_neg last, position, phase, count] at advances
    exact advances h.chained ⟨block, inside, stored count⟩ (by omega)

/-- VARS takes over the chaining value: no round is done yet (42_compressor R146). -/
theorem advances_vars (h : Compressing ws n s) (phase : s.PHASE = .vars) : Advances ws n s := by
  have now := h.now
  rw [phase] at now
  obtain ⟨block, words⟩ := now
  have loaded : WorkVars.toVector ⟨s.H[0], s.H[1], s.H[2], s.H[3], s.H[4], s.H[5], s.H[6], s.H[7]⟩ = s.H := by
    refine Vector.ext fun j hj => ?_
    interval_cases j <;> rfl
  refine advances_of_exec h (i := .vars) (by rw [phase]; rfl) (by simp) rfl h.chained
    ⟨block, Nat.zero_lt_succ _, words, loaded⟩ ?_
  simp only [position, phase]
  rfl

/-- ROUND does one more round, and hands over to CHAIN after 64 (42_compressor R147, R156). -/
theorem advances_round (h : Compressing ws n s) (phase : s.PHASE = .round) : Advances ws n s := by
  have now := h.now
  rw [phase] at now
  obtain ⟨block, index, words, rounds⟩ := now
  have count := toNat_T_add_one index
  have word : (scheduleOf ws s.I.toNat).getD s.T.toNat 0 = s.wWord s.T.toNat := words.getD_eq index 0
  have after {m : Nat} (hm : m = s.T.toNat + 1) : roundFn s.v.toVector (kWord s.T.toNat) (s.wWord s.T.toNat) =
      roundsUpTo s.H (blockWords ws s.I.toNat) m := by
    rw [hm, roundsUpTo, ← rounds, ← word, scheduleOf]
  have advances := advances_of_exec h (i := .round) (by rw [phase]; rfl) (by simp) (execRound_next.2 ⟨index, rfl⟩)
  by_cases last : s.T.toNat + 1 = 64
  · simp only [if_pos last, position, phase] at advances
    exact advances h.chained ⟨block, after last.symm⟩ (by omega)
  · have inside : (s.T + 1).toNat < 64 := by omega
    simp only [if_neg last, position, phase, count] at advances
    exact advances h.chained ⟨block, inside, words, after count⟩ (by omega)

/-- CHAIN takes H from before the block to after it (42_compressor R148, R156). -/
theorem advances_chain (h : Compressing ws n s) (phase : s.PHASE = .chain) : Advances ws n s := by
  have now := h.now
  rw [phase] at now
  obtain ⟨block, rounds⟩ := now
  have count := toNat_add_one block s.N.isLt
  have after : chainSum s.H s.v = chainState ws (s.I + 1).toNat := by
    rw [count, chainSum_eq_zipWith, rounds, chainState, ← h.chained, compressBlock]
  have advances := advances_of_exec h (i := .chain) (by rw [phase]; rfl) (by simp) rfl after
  by_cases more : s.I.toNat + 1 < s.N.toNat
  · simp only [if_pos more, position, phase, count] at advances
    exact advances ⟨count ▸ more, Nat.zero_lt_succ _, spells_zero _ _⟩ rfl
  · have last : s.I.toNat + 1 = s.N.toNat := by omega
    simp only [if_neg more, position, phase, count] at advances
    exact advances (count.trans last) rfl

/-- Before FINISH every step advances. -/
theorem advances_of_lt (h : Compressing ws n s) (more : position s < 130 * n) : Advances ws n s := by
  have now := h.now
  cases phase : s.PHASE <;> rw [phase] at now
  case sched => exact advances_sched h phase
  case vars => exact advances_vars h phase
  case round => exact advances_round h phase
  case chain => exact advances_chain h phase
  case finish =>
    have ended : s.I.toNat = s.N.toNat := now
    have := h.blocks
    simp only [position, phase] at more
    omega
  all_goals exact now.elim

/-- The position tells the block, and the end of the last block is FINISH. -/
theorem block_of_position {i : Nat} (h : Compressing ws n s) (start : position s = 130 * i) :
    s.I.toNat = i ∧ (i = n → s.PHASE = .finish) := by
  have now := h.now
  have blocks := h.blocks
  cases phase : s.PHASE <;> rw [phase] at now <;> simp only [position, phase] at start
  case sched | round =>
    obtain ⟨block, index, -⟩ := now
    exact ⟨by omega, by omega⟩
  case vars | chain => omega
  case finish => exact ⟨by omega, fun _ => rfl⟩
  all_goals exact now.elim

/-- In k steps the compression moves on by k, and the engine goes on from there. -/
theorem runsTo_compressing {k : Nat} (h : Compressing ws n s) (left : position s + k ≤ 130 * n) :
    ∃ t, RunsTo k s t ∧ Compressing ws n t ∧ position t = position s + k := by
  induction k generalizing s with
  | zero => exact ⟨s, rfl, h, rfl⟩
  | succ k ih =>
    obtain ⟨u, turn, h', moved⟩ := advances_of_lt h (by omega)
    obtain ⟨t, rest, ended, moved'⟩ := ih h' (by omega)
    exact ⟨t, runsTo_succ.2 ⟨u, turn, rest⟩, ended, by omega⟩

/-- HINIT starts the compression at the first SCHED of block 0 (42_compressor R144). -/
theorem step_hinit (script : s.script = []) (phase : s.PHASE = .hinit) (positive : 1 ≤ s.N.toNat)
    (capacity : s.N.toNat ≤ s.NMAX) (length : ws.length = 16 * s.N.toNat)
    (parsed : Spells ws s.wbufWord (16 * s.N.toNat)) :
    ∃ t, step s = .next t ∧ Compressing ws s.N.toNat t ∧ position t = 0 :=
  ⟨_, step_of_operation (i := .hinit) script (by rw [phase]; rfl),
    ⟨script, rfl, capacity, length, parsed, rfl, positive, Nat.zero_lt_succ _, spells_zero _ _⟩, rfl⟩

/-- A run of k turns and then one of l turns is a run of k + l turns. -/
theorem runsTo_add {k l : Nat} {u : State} (first : RunsTo k s u) (rest : RunsTo l u t) : RunsTo (k + l) s t := by
  induction k generalizing s with
  | zero =>
    cases first
    exact (Nat.zero_add l).symm ▸ rest
  | succ k ih =>
    obtain ⟨v, turn, first⟩ := runsTo_succ.1 first
    rw [Nat.add_right_comm]
    exact runsTo_succ.2 ⟨v, turn, ih first⟩

/-- FINISH delivers H and ends the run (42_compressor R155). -/
theorem runsTo_finish (script : s.script = []) (phase : s.PHASE = .finish) :
    RunsTo 1 s { s with D := some s.H, DONE := true, PHASE := .idle } :=
  runsTo_succ.2 ⟨_, step_of_operation (i := .finish) script (by rw [phase]; rfl), rfl⟩

/-- Settles O53: i blocks after HINIT the chaining value is that of index i, and with N blocks FINISH delivers it. -/
theorem compressorComputesCompress : Obligations.CompressorComputesCompress := by
  unfold Obligations.CompressorComputesCompress
  intro s ws script phase positive capacity length parsed
  obtain ⟨u, turn, begun, start⟩ := step_hinit script phase positive capacity length parsed
  have afterBlocks {i : Nat} (hi : i ≤ s.N.toNat) :
      ∃ t, RunsTo (1 + 130 * i) s t ∧ Compressing ws s.N.toNat t ∧ position t = 130 * i := by
    obtain ⟨t, rest, ended, moved⟩ := runsTo_compressing begun (k := 130 * i) (by omega)
    exact ⟨t, runsTo_add (runsTo_succ.2 ⟨u, turn, rfl⟩) rest, ended, by omega⟩
  constructor
  · obtain ⟨t, run, ended, moved⟩ := afterBlocks le_rfl
    obtain ⟨block, finish⟩ := block_of_position ended moved
    exact ⟨_, runsTo_add run (runsTo_finish ended.script (finish rfl)), rfl, rfl,
      congrArg some (ended.chained.trans (congrArg (chainState ws) block))⟩
  · intro i hi
    obtain ⟨t, run, ended, moved⟩ := afterBlocks (i := i + 1) hi
    obtain ⟨block, -⟩ := block_of_position ended moved
    exact ⟨t, run, block ▸ ended.chained⟩

end Sys2Proof.Laws

/-! Proofs about the host interface (43_host_interface): what each host access answers and does (R181 to R185), and the
length check (R186). -/

namespace Sys2Proof.Laws

open Sys2Proof.Machine Sys2Proof.Safety

variable {s t : State} {n : DWord}

/-! ### What RREG answers -/

/-- 10_state R29: the STATUS word as the sum of its fields. -/
theorem status_word_eq_sum : ∀ (errcode : BitVec 2) (error done busy : Bool),
    (0 : BitVec 27) ++ errcode ++ flagBit error ++ flagBit done ++ flagBit busy =
      BitVec.ofNat 32 (errcode.toNat * 8 + error.toNat * 4 + done.toNat * 2 + busy.toNat) := by
  decide

/-- 10_state R29: STATUS as the sum of its fields. -/
theorem status_eq_sum (s : State) : s.status = BitVec.ofNat 32
    (s.ERRCODE.toNat * 8 + s.ERROR.toNat * 4 + s.DONE.toNat * 2 + (if s.PHASE = .idle then 0 else 1)) := by
  rw [State.status, status_word_eq_sum, State.busy]
  by_cases idle : s.PHASE = .idle <;> simp [idle]

/-- 43_host_interface R181: NBLK while DONE = 1. -/
theorem registerValue_blocks (done : s.DONE = true) : s.registerValue 3 = some (.dword s.N) := if_pos done

/-- 43_host_interface R181: PLENR while DONE = 1. -/
theorem registerValue_padded (done : s.DONE = true) : s.registerValue 4 = some (.dword s.PLEN) := if_pos done

/-- 43_host_interface R181: while DONE = 0 only STATUS and LEN have values. -/
theorem registerValue_of_not_done (done : s.DONE = false) (status : n ≠ 1) (len : n ≠ 2) :
    s.registerValue n = none := by
  rw [State.registerValue, if_neg status, if_neg len, done]
  simp

/-- 43_host_interface R181: CMD and the reserved numbers have no value. -/
theorem registerValue_of_no_register (other : n.toNat = 0 ∨ (5 ≤ n.toNat ∧ n.toNat ≤ 7) ∨ 16 ≤ n.toNat) :
    s.registerValue n = none := by
  rw [State.registerValue, if_neg (by bv_omega), if_neg (by bv_omega), if_neg (by bv_omega), if_neg (by bv_omega),
    if_neg (by omega)]

/-- Log 19: a free answer for NBLK or PLENR has their 64 bits. -/
theorem unspecifiedAnswer_length (h : n = 3 ∨ n = 4) (k : Nat) :
    unspecifiedAnswer n k = .dword (Config.freeDWord k) := by
  rw [unspecifiedAnswer, if_neg (by bv_omega), if_pos h]

/-- Log 19: a free answer for a word of D has its 32 bits. -/
theorem unspecifiedAnswer_digest (low : 8 ≤ n.toNat) (high : n.toNat ≤ 15) (k : Nat) :
    unspecifiedAnswer n k = .word (Config.freeWord k) := by
  rw [unspecifiedAnswer, if_neg (by bv_omega), if_neg (by bv_omega), if_pos ⟨low, high⟩]

/-- Log 19: a free answer for a reserved number has a free width. -/
theorem unspecifiedAnswer_reserved (h : (5 ≤ n.toNat ∧ n.toNat ≤ 7) ∨ 16 ≤ n.toNat) (k : Nat) :
    unspecifiedAnswer n k = Config.freeRead k := by
  rw [unspecifiedAnswer, if_neg (by bv_omega), if_neg (by bv_omega), if_neg (by omega)]

/-- RREG of a register without a value answers the free value of its width, and the counter goes on. -/
theorem exec_rreg_free {r : ReadValue} (unknown : s.registerValue n = none)
    (free : unspecifiedAnswer n s.freeCount = r) :
    exec (.rreg n) s = .next { s with returned := r :: s.returned, freeCount := s.freeCount + 1 } :=
  free ▸ execRreg_of_none unknown

/-- RREG of a register with a value answers it. -/
theorem exec_rreg_known {r : ReadValue} (known : s.registerValue n = some r) :
    exec (.rreg n) s = .next { s with returned := r :: s.returned } := execRreg_of_some known

/-- Settles O15: the registers with a value, then those without one, each by the width of its free answer. -/
theorem rregAnswers : Obligations.RregAnswers := by
  unfold Obligations.RregAnswers
  intro s n
  refine ⟨?_, ?_, ?_, ?_, ?_, fun i d number done digest => ?_, fun number done => ?_, fun low high done => ?_, ?_,
    fun reserved => ?_⟩
  · rintro rfl
    rw [← status_eq_sum]
    exact exec_rreg_known rfl
  · rintro rfl flagsInv busy
    rw [← status_of_running (flags_of_busy flagsInv busy) busy]
    exact exec_rreg_known rfl
  · rintro rfl
    exact exec_rreg_known rfl
  · rintro rfl done
    exact exec_rreg_known (registerValue_blocks done)
  · rintro rfl done
    exact exec_rreg_known (registerValue_padded done)
  · obtain rfl : n = BitVec.ofNat 64 (8 + i) := by rw [← number, BitVec.ofNat_toNat, BitVec.setWidth_eq]
    exact exec_rreg_known (registerValue_digest done digest i)
  · exact exec_rreg_free (registerValue_of_not_done done (by bv_omega) (by bv_omega))
      (unspecifiedAnswer_length number _)
  · exact exec_rreg_free (registerValue_of_not_done done (by bv_omega) (by bv_omega))
      (unspecifiedAnswer_digest low high _)
  · rintro rfl
    exact exec_rreg_free (registerValue_of_no_register (.inl rfl)) rfl
  · exact exec_rreg_free (registerValue_of_no_register (.inr reserved)) (unspecifiedAnswer_reserved reserved _)

/-! ### RMSG, WREG, WMSG, START and LCHK -/

/-- 20_memory R64: a byte that has been written reads as what was written last. -/
theorem msgByte_of_written {k : Nat} {b : Byte} (written : Memory.find s.MSG k = some b) : s.msgByte k = b := by
  rw [State.msgByte, written, Option.getD_some]

/-- Log 3: a byte that has not been written reads as its free content. -/
theorem msgByte_of_unwritten {k : Nat} (unwritten : Memory.find s.MSG k = none) :
    s.msgByte k = Config.unwrittenMsg s.resetCount k := by
  rw [State.msgByte, unwritten, Option.getD_none]

/-- Settles O17: in range the byte of MSG, written or not, and beyond it a free one. -/
theorem rmsgAnswers : Obligations.RmsgAnswers := by
  unfold Obligations.RmsgAnswers
  intro s j
  refine ⟨fun b range written => ?_, fun range unwritten => ?_, fun beyond => ?_⟩
  · rw [← msgByte_of_written written]
    exact execRmsg_of_lt range
  · rw [← msgByte_of_unwritten unwritten]
    exact execRmsg_of_lt range
  · exact execRmsg_of_not_lt beyond.not_gt

/-- 43_host_interface R185: START while idle. -/
theorem exec_start_of_idle (idle : s.PHASE = .idle) : exec .start s =
    .next { s with DONE := false, ERROR := false, ERRCODE := 0, D := none, PHASE := .lchk } :=
  congrArg Host.Outcome.next (startCall_of_idle s idle)

/-- 43_host_interface R185: START while BUSY. -/
theorem exec_start_of_busy (busy : s.PHASE ≠ .idle) : exec .start s = .next s :=
  congrArg Host.Outcome.next (startCall_of_busy s busy)

/-- Settles O19. -/
theorem startEffects : Obligations.StartEffects := by
  unfold Obligations.StartEffects
  exact fun s => ⟨exec_start_of_idle, exec_start_of_busy⟩

/-- 43_host_interface R182: a write of 1 to CMD is START. -/
theorem exec_wreg_start {v : DWord} (one : v.extractLsb' 0 32 = 1) : exec (.wreg 0 v) s = exec .start s := by
  show execWreg 0 v s = .next s.startCall
  rw [execWreg, if_pos rfl, if_pos one]

/-- 43_host_interface R182: no other write to CMD does anything. -/
theorem exec_wreg_cmd {v : DWord} (other : v.extractLsb' 0 32 ≠ 1) : exec (.wreg 0 v) s = .next s := by
  show execWreg 0 v s = .next s
  rw [execWreg, if_pos rfl, if_neg other]

/-- 43_host_interface R182: a write to LEN while BUSY does nothing. -/
theorem exec_wreg_len_of_busy (busy : s.PHASE ≠ .idle) (v : DWord) : exec (.wreg 2 v) s = .next s := by
  show execWreg 2 v s = .next s
  rw [execWreg, if_neg (by decide), if_pos rfl, if_pos ((busy_eq_true s).2 busy)]

/-- 43_host_interface R182: a write to any other register does nothing. -/
theorem exec_wreg_other (cmd : n ≠ 0) (len : n ≠ 2) (v : DWord) : exec (.wreg n v) s = .next s := by
  show execWreg n v s = .next s
  rw [execWreg, if_neg cmd, if_neg len]

/-- Settles O16: a write to CMD is START or nothing, LEN is stored while idle, and no other register is written. -/
theorem wregEffects : Obligations.WregEffects := by
  unfold Obligations.WregEffects
  intro s n v
  refine ⟨?_, ?_, ?_, ?_, ?_, fun cmd len => exec_wreg_other cmd len v⟩
  · rintro rfl one idle
    exact (exec_wreg_start one).trans (exec_start_of_idle idle)
  · rintro rfl one busy
    exact (exec_wreg_start one).trans (exec_start_of_busy busy)
  · rintro rfl other
    exact exec_wreg_cmd other
  · rintro rfl idle
    exact execWreg_len_of_idle idle v
  · rintro rfl busy
    exact exec_wreg_len_of_busy busy v

/-- Settles O18: the store to MSG, and the write that is dropped. -/
theorem wmsgEffects : Obligations.WmsgEffects := by
  unfold Obligations.WmsgEffects
  intro s j b
  refine ⟨fun idle range => ⟨_, execWmsg_of_idle idle range b, rfl, msgByte_of_write rfl rfl⟩, fun dropped => ?_⟩
  obtain ⟨idle, range, -⟩ | ⟨-, run⟩ := execWmsg_cases (s := s) j b
  · exact absurd dropped (not_or.2 ⟨not_not.2 idle, range.not_ge⟩)
  · exact run

/-- Settles O23: LCHK raises the error, or hands over to PSIZE. -/
theorem lchkEffects : Obligations.LchkEffects := by
  unfold Obligations.LchkEffects
  intro s
  obtain ⟨long, run⟩ | ⟨fits, run⟩ := execLchk_cases (s := s)
  · exact ⟨fun _ => run, fun fits => absurd long fits.not_ge⟩
  · exact ⟨fun long => absurd long fits.not_ge, fun _ => run⟩

end Sys2Proof.Laws

/-! Proofs about whole runs (43_host_interface R191, R192): a run that fits and its end, the order of its phases, and
its result under every interleaving of host accesses. -/

namespace Sys2Proof.Laws

open Sys2Proof.Machine Sys2Proof.Safety

variable {s t : State} {m : List Byte}

/-! ### Runs in which the engine has every turn -/

/-- With an empty script a turn takes nothing off it. -/
theorem afterTurn_of_nil (script : s.script = []) : s.afterTurn = s := by
  cases s
  cases script
  rfl

/-- With an empty script a step is a turn of the engine. -/
theorem step_of_nil (script : s.script = []) : step s = s.takeTurn .engine := by
  cases selected : s.PHASE.operation with
  | none =>
    have turn : step s = .next s := by rw [step_eq, turn_of_nil script, selected, afterTurn_of_nil script]
    rw [turn, takeTurn_engine, selected]
  | some i =>
    rw [step_of_operation script selected, takeTurn_engine, selected]

/-- A turn of the engine leaves the turns to come. -/
theorem script_takeTurn_engine (next : s.takeTurn .engine = .next t) : t.script = s.script := by
  rw [takeTurn_engine] at next
  cases selected : s.PHASE.operation with
  | none =>
    rw [selected] at next
    cases next
    rfl
  | some i =>
    rw [selected] at next
    exact script_operation selected next

/-- With an empty script a run is turns of the engine. -/
theorem runsTo_of_engineTurns {k : Nat} (script : s.script = []) (turns : engineTurns k s = .next t) :
    RunsTo k s t := by
  induction k generalizing s with
  | zero => exact turns
  | succ k ih =>
    obtain ⟨u, turn, rest⟩ := andThen_eq_next.1 turns
    exact runsTo_succ.2 ⟨u, (step_of_nil script).trans turn, ih ((script_takeTurn_engine turn).trans script) rest⟩

/-- A run is over where it is idle. -/
theorem endsAfter_zero (idle : s.PHASE = .idle) : EndsAfter 0 s s :=
  ⟨rfl, idle, fun j hj => absurd hj (Nat.not_lt_zero j)⟩

/-- A run that takes a turn while BUSY ends one turn later than the rest of it. -/
theorem endsAfter_succ {k : Nat} {u : State} (busy : s.PHASE ≠ .idle) (turn : step s = .next u)
    (rest : EndsAfter k u t) : EndsAfter (k + 1) s t := by
  obtain ⟨run, idle, first⟩ := rest
  refine ⟨runsTo_succ.2 ⟨u, turn, run⟩, idle, fun j hj v path => ?_⟩
  cases j with
  | zero =>
    cases path
    exact busy
  | succ j =>
    obtain ⟨w, turn', path⟩ := runsTo_succ.1 path
    cases turn.symm.trans turn'
    exact first j (by omega) v path

/-- A run on its course ends after the steps that are left, no sooner. -/
theorem endsAfter_of_onCourse (course : OnCourse m s) (script : s.script = []) :
    ∃ t, EndsAfter (stepsLeft s) s t ∧ OnCourse m t ∧ hostSide t = hostSide s := by
  obtain ⟨t, turns, course', host, left⟩ := engineTurns_onCourse course (stepsLeft s)
  refine ⟨t, ⟨runsTo_of_engineTurns script turns, stepsLeft_eq_zero.1 (by omega), fun j hj u path idle => ?_⟩,
    course', host⟩
  obtain ⟨v, turns', -, -, left'⟩ := engineTurns_onCourse course j
  cases path.symm.trans (runsTo_of_engineTurns script turns')
  rw [stepsLeft_eq_zero.2 idle] at left'
  omega

/-! ### What holds at the end of a run -/

/-- A property that does not speak of the model's own fields and that every operation keeps holds at the end of a run,
whatever host accesses fall between its operations. -/
theorem endsAfter_induction {P : State → Prop}
    (own : ∀ u script returned freeCount, P u → P (withOwn u script returned freeCount))
    (operation : ∀ u v i, P u → u.PHASE.operation = some i → exec i u = .next v → P v)
    {k : Nat} (noReset : NoReset s) (ends : EndsAfter k s t) (start : P s) : P t := by
  induction k generalizing s with
  | zero =>
    obtain ⟨run, -, -⟩ := ends
    cases run
    exact start
  | succ k ih =>
    by_cases idle : s.PHASE = .idle
    · rwa [endsAfter_of_idle idle ends]
    · obtain ⟨l, u, same, turn, rest⟩ := endsAfter_of_busy idle ends
      obtain rfl := Nat.succ.inj same
      obtain ⟨later, ⟨_, _, _, rfl⟩ | ⟨i, selected, run⟩⟩ := step_of_busy idle noReset turn
      · exact ih later rest (own _ _ _ _ start)
      · exact ih later rest (operation s.afterTurn u i (own _ _ _ _ start) selected run)

/-- LEN and MSG are the host's, so a run leaves them as they were (20_memory R72). -/
theorem len_msg_of_ends {k : Nat} (noReset : NoReset s) (ends : EndsAfter k s t) : t.LEN = s.LEN ∧ t.MSG = s.MSG := by
  refine endsAfter_induction (P := fun u => u.LEN = s.LEN ∧ u.MSG = s.MSG) (fun _ _ _ _ h => h)
    (fun u v i h selected next => ?_) noReset ends ⟨rfl, rfl⟩
  have host := hostSide_operation selected next
  simp only [hostSide, Prod.mk.injEq] at host
  obtain ⟨msg, len, -⟩ := host
  exact ⟨len.trans h.1, msg.trans h.2⟩

/-- A run on its course whose results, once it is over, are the sizes of its message (43_host_interface R192). -/
structure Delivers (m : List Byte) (s : State) : Prop where
  course : OnCourse m s
  results : s.PHASE = .idle → Sized s

/-- FINISH leaves the sizes that PSIZE stored, and no other operation of such a run ends it. -/
theorem delivers_operation {i : Instr} (h : Delivers m s) (selected : s.PHASE.operation = some i)
    (next : exec i s = .next t) : Delivers m t := by
  obtain ⟨course, -⟩ := h
  have len : s.LEN.toNat = m.length := by rw [← course.message, length_message]
  obtain ⟨u, next', course', -⟩ := onCourse_operation course selected
  cases next.symm.trans next'
  refine ⟨course', fun idle => ?_⟩
  obtain ⟨busy, -⟩ | ⟨last, -, -⟩ :=
    flags_operation course.counters (len ▸ course.short) (len ▸ course.capacity) selected next
  · exact absurd idle busy
  · rw [last] at selected
    cases selected
    cases next
    exact sized_congr (course.counters.sized (by simp [last])) rfl

/-- The sizes at the end of a run on its course. -/
theorem sized_of_ends {k : Nat} (course : OnCourse m s) (busy : s.PHASE ≠ .idle) (noReset : NoReset s)
    (ends : EndsAfter k s t) : Sized t := by
  have delivers : Delivers m t := endsAfter_induction
    (fun u _ _ _ h => ⟨onCourse_withOwn h.course _ _ _, fun idle => sized_congr (h.results idle) rfl⟩)
    (fun u v i h => delivers_operation h) noReset ends ⟨course, fun idle => absurd idle busy⟩
  exact delivers.results ends.2.1

/-- From LCHK on all the steps of the run are left (70_reset_and_hazards R249). -/
theorem stepsLeft_of_lchk (course : OnCourse m s) (phase : s.PHASE = .lchk) :
    stepsLeft s = runSteps (nblocks m.length) := by
  rw [← course.message, length_message]
  simp only [stepsLeft, phase]

/-- A run that begins with LCHK and fits delivers the digest of its message and the sizes (43_host_interface R192). -/
theorem runDelivers (course : OnCourse m s) (script : s.script = []) (phase : s.PHASE = .lchk) :
    ∃ t, EndsAfter (runSteps (nblocks m.length)) s t ∧ t.DONE = true ∧ t.ERROR = false ∧ t.ERRCODE = 0 ∧
      t.D = some (sha256 m) ∧ t.N.toNat = nblocks m.length ∧ t.PLEN.toNat = padlen m.length ∧ t.message = m := by
  obtain ⟨t, ends, course', -⟩ := endsAfter_of_onCourse course script
  have sized : Sized t := sized_of_ends course (by simp [phase]) (by simp [NoReset, script]) ends
  have left := stepsLeft_of_lchk course phase
  have len : t.LEN.toNat = m.length := by rw [← course'.message, length_message]
  have ended := course'.ended ends.2.1
  simp only [flags, Prod.mk.injEq] at ended
  obtain ⟨done, error, errcode, digest⟩ := ended
  exact ⟨t, left ▸ ends, done, error, errcode, digest, len ▸ sized.blocks, len ▸ sized.padded, course'.message⟩

/-! ### The three ways a run ends -/

/-- A run of a message that fits is on its course from START on. -/
theorem onCourse_of_justStarted (start : JustStarted s) (short : s.LEN.toNat < 2 ^ 61)
    (capacity : nblocks s.LEN.toNat ≤ s.NMAX) : OnCourse s.message s :=
  onCourse_of_lchk start.phase (flags_eq_running.2 ⟨start.done, start.error, start.errcode, start.digest⟩)
    (by rwa [length_message]) (by rwa [length_message]) rfl

/-- Settles O55: LCHK raises the error in the first step, or PSIZE in the second, or the run stays on its course. -/
theorem runEndsWithSha256 : Obligations.RunEndsWithSha256 := by
  unfold Obligations.RunEndsWithSha256
  intro s start script
  have busy : s.PHASE ≠ .idle := by simp [start.phase]
  have lchk : step s = exec .lchk s := step_of_operation script (by rw [start.phase]; rfl)
  refine ⟨fun long => ?_, fun short full => ?_, fun short capacity => ?_⟩
  · exact endsAfter_succ busy (lchk.trans ((lchkEffects s).1 long)) (endsAfter_zero rfl)
  · have psize := step_of_operation (s := { s with PHASE := .psize }) (i := .psize) script rfl
    exact endsAfter_succ busy (lchk.trans ((lchkEffects s).2 short))
      (endsAfter_succ (by simp) (psize.trans ((psizeEffects _ short).1 full)) (endsAfter_zero rfl))
  · obtain ⟨t, ends, done, error, errcode, digest, blocks, padded, -⟩ :=
      runDelivers (onCourse_of_justStarted start short capacity) script start.phase
    rw [length_message] at ends blocks padded
    exact ⟨t, ends, done, error, errcode, digest, blocks, padded, len_msg_of_ends (by simp [NoReset, script]) ends⟩

theorem flags_eq : flags s = flags t ↔ s.DONE = t.DONE ∧ s.ERROR = t.ERROR ∧ s.ERRCODE = t.ERRCODE ∧ s.D = t.D := by
  simp [flags]

/-- Settles O56: the run ends like the one in which the engine has every turn, for the two have the same inputs. -/
theorem resultUnderEveryInterleaving : Obligations.ResultUnderEveryInterleaving := by
  unfold Obligations.ResultUnderEveryInterleaving
  intro s t k start noReset ends
  have start' : JustStarted (withOwn s [] s.returned s.freeCount) := { start with }
  have counters : CounterInv s := counterInv_iff.2 (by rw [start.phase]; trivial)
  have alike {l : Nat} {u : State} (ends' : EndsAfter l (withOwn s [] s.returned s.freeCount) u) : SameRun t u :=
    sameRun_end (sameRun_of_justStarted start start' rfl) counters noReset List.not_mem_nil ends ends'
  obtain ⟨tooLong, tooMany, fits⟩ := runEndsWithSha256 _ start' rfl
  refine ⟨fun long => ?_, fun short full => ?_, fun short capacity => ?_, len_msg_of_ends noReset ends⟩
  · obtain ⟨done, error, errcode, digest⟩ := flags_eq.1 (alike (tooLong long)).flags
    exact ⟨error, errcode, done.trans start.done, digest.trans start.digest⟩
  · obtain ⟨done, error, errcode, digest⟩ := flags_eq.1 (alike (tooMany short full)).flags
    exact ⟨error, errcode, done.trans start.done, digest.trans start.digest⟩
  · obtain ⟨u, ends', done, error, errcode, digest, blocks, padded, -⟩ := fits short capacity
    have run := alike ends'
    obtain ⟨done', error', errcode', digest'⟩ := flags_eq.1 run.flags
    have live : SameLive t u .idle := ends.2.1 ▸ run.live
    obtain ⟨-, padded', blocks'⟩ := lengths_eq.1 (live (done'.trans done))
    exact ⟨done'.trans done, error'.trans error, errcode'.trans errcode, digest'.trans digest,
      (congrArg _ blocks').trans blocks, (congrArg _ padded').trans padded⟩

/-! ### The order of the phases -/

/-- Behind the first of two lists comes the second. -/
theorem getElem?_append_of_eq_add {α : Type} {front back : List α} {i k : Nat} (h : i = front.length + k) :
    (front ++ back)[i]? = back[k]? := by
  rw [h, List.getElem?_append_right (Nat.le_add_right _ _), Nat.add_sub_cancel_left]

/-- A list that begins with equal elements. -/
theorem getElem?_replicate_append {α : Type} {x : α} {back : List α} {count j : Nat} (h : j < count) :
    (List.replicate count x ++ back)[j]? = some x := by
  rw [List.getElem?_append_left (by rwa [List.length_replicate]), List.getElem?_replicate_of_lt h]

theorem length_blockPhases : blockPhases.length = 130 := by
  simp only [blockPhases, List.append_eq, List.length_append, List.length_cons, List.length_replicate, List.length_nil]

theorem length_blocksPhases (n : Nat) : (blocksPhases n).length = 130 * n := by
  induction n with
  | zero => rfl
  | succ n ih =>
    rw [blocksPhases, List.append_eq, List.length_append, length_blockPhases, ih]
    omega

/-- The first 64 steps of a block are SCHED. -/
theorem getElem?_blockPhases_sched {r : Nat} (h : r < 64) : blockPhases[r]? = some .sched :=
  getElem?_replicate_append h

/-- The 64 steps of a block behind VARS are ROUND. -/
theorem getElem?_blockPhases_round {r : Nat} (h : r < 64) : blockPhases[65 + r]? = some .round := by
  have index : 65 + r = 64 + (r + 1) := by omega
  rw [blockPhases, List.append_eq, index, getElem?_append_of_eq_add (by rw [List.length_replicate])]
  exact getElem?_replicate_append h

/-- Step r of block i is step r of a block. -/
theorem getElem?_blocksPhases {n i r : Nat} (block : i < n) (step : r < 130) :
    (blocksPhases n)[130 * i + r]? = blockPhases[r]? := by
  induction n generalizing i with
  | zero => omega
  | succ n ih =>
    rw [blocksPhases, List.append_eq]
    cases i with
    | zero => rw [List.getElem?_append_left (by rw [length_blockPhases]; omega), Nat.mul_zero, Nat.zero_add]
    | succ i =>
      rw [getElem?_append_of_eq_add (k := 130 * i + r) (by rw [length_blockPhases]; omega), ih (by omega)]

/-- The phases of a run from HINIT on (43_host_interface R191). -/
def compressorPhases (n : Nat) : List Phase := Phase.hinit :: (blocksPhases n ++ [Phase.finish])

/-- The phases of a run from PCHK on (43_host_interface R191). -/
def parserPhases (n : Nat) : List Phase := Phase.pchk :: (List.replicate (16 * n) Phase.parsew ++ compressorPhases n)

theorem runPhases_eq (n : Nat) :
    runPhases n = Phase.lchk :: Phase.psize :: (List.replicate (64 * n) Phase.padb ++ parserPhases n) := rfl

/-- 70_reset_and_hazards R249: the steps of a successful run. -/
theorem length_runPhases (n : Nat) : (runPhases n).length = runSteps n := by
  simp only [runPhases_eq, parserPhases, compressorPhases, runSteps, List.length_cons, List.length_append,
    List.length_replicate, length_blocksPhases, List.length_nil]
  omega

/-- The 64·n steps behind LCHK and PSIZE pad. -/
theorem getElem?_runPhases_padb {n j : Nat} (h : j < 64 * n) : (runPhases n)[j + 2]? = some .padb :=
  getElem?_replicate_append h

/-- Behind the padding comes the Block Parser. -/
theorem getElem?_runPhases_parser (n k : Nat) : (runPhases n)[64 * n + k + 2]? = (parserPhases n)[k]? :=
  getElem?_append_of_eq_add (by rw [List.length_replicate])

/-- The 16·n steps behind PCHK parse. -/
theorem getElem?_runPhases_parsew {n j : Nat} (h : j < 16 * n) : (runPhases n)[64 * n + (j + 1) + 2]? = some .parsew :=
  (getElem?_runPhases_parser n _).trans (getElem?_replicate_append h)

/-- Behind the parsing comes the Compressor. -/
theorem getElem?_runPhases_compressor (n k : Nat) :
    (runPhases n)[64 * n + (16 * n + k + 1) + 2]? = (compressorPhases n)[k]? :=
  (getElem?_runPhases_parser n _).trans (getElem?_append_of_eq_add (by rw [List.length_replicate]))

/-- The 130 steps of each block come behind HINIT, block after block. -/
theorem getElem?_runPhases_block {n i r : Nat} (block : i < n) (step : r < 130) :
    (runPhases n)[64 * n + (16 * n + (130 * i + r + 1) + 1) + 2]? = blockPhases[r]? := by
  have inside : 130 * i + r < (blocksPhases n).length := by rw [length_blocksPhases]; omega
  exact (getElem?_runPhases_compressor n _).trans
    ((List.getElem?_append_left inside).trans (getElem?_blocksPhases block step))

/-- The last step is FINISH. -/
theorem getElem?_runPhases_finish (n : Nat) :
    (runPhases n)[64 * n + (16 * n + (130 * n + 1) + 1) + 2]? = some .finish :=
  (getElem?_runPhases_compressor n _).trans (getElem?_append_of_eq_add (k := 0) (length_blocksPhases n).symm)

/-- The steps that are left tell the phase: where all but k steps of a run are left, the phase is that of step k. -/
theorem getElem?_runPhases_of_stepsLeft {k : Nat} (counters : CounterInv s) (busy : s.PHASE ≠ .idle)
    (taken : stepsLeft s + k = runSteps (nblocks s.LEN.toNat)) :
    (runPhases (nblocks s.LEN.toNat))[k]? = some s.PHASE := by
  rw [counterInv_iff] at counters
  rw [stepsLeft, runSteps] at taken
  cases phase : s.PHASE <;> rw [phase] at counters busy taken
  case idle => exact absurd rfl busy
  case lchk =>
    obtain rfl : k = 0 := by dsimp only [runSteps] at taken; omega
    rfl
  case psize =>
    obtain rfl : k = 1 := by dsimp only at taken; omega
    rfl
  all_goals
    obtain ⟨sized, counters⟩ := counters
    have length : s.PLEN.toNat = 64 * s.N.toNat := by rw [sized.padded, sized.blocks, padlen_eq]
    have positive : 1 ≤ s.N.toNat := sized.blocks ▸ nblocks_pos _
    rw [← sized.blocks] at taken ⊢
    dsimp only at taken
  case padb =>
    obtain rfl : k = s.J.toNat + 2 := by omega
    exact getElem?_runPhases_padb (length ▸ counters)
  case pchk =>
    obtain rfl : k = 64 * s.N.toNat + 0 + 2 := by omega
    exact getElem?_runPhases_parser s.N.toNat 0
  case parsew =>
    obtain rfl : k = 64 * s.N.toNat + (s.J.toNat + 1) + 2 := by omega
    exact getElem?_runPhases_parsew counters
  case hinit =>
    obtain rfl : k = 64 * s.N.toNat + (16 * s.N.toNat + 0 + 1) + 2 := by omega
    exact getElem?_runPhases_compressor s.N.toNat 0
  case finish =>
    obtain rfl : k = 64 * s.N.toNat + (16 * s.N.toNat + (130 * s.N.toNat + 1) + 1) + 2 := by omega
    exact getElem?_runPhases_finish _
  all_goals
    obtain ⟨block, index⟩ := counters
    have inBlock {r : Nat} (range : r < 130) (hk : k = 80 * s.N.toNat + 130 * s.I.toNat + r + 4) :
        (runPhases s.N.toNat)[k]? = blockPhases[r]? := by
      obtain rfl : k = 64 * s.N.toNat + (16 * s.N.toNat + (130 * s.I.toNat + r + 1) + 1) + 2 := by omega
      exact getElem?_runPhases_block block range
  case sched => exact (inBlock (by omega) (by omega)).trans (getElem?_blockPhases_sched index)
  case vars => exact inBlock (r := 64) (by decide) (by omega)
  case round => exact (inBlock (by omega) (by omega)).trans (getElem?_blockPhases_round index)
  case chain => exact inBlock (r := 129) (by decide) (by omega)

/-- Settles O54: k steps from START the run has k steps less to take, which tells the phase. -/
theorem runFollowsThePhaseOrder : Obligations.RunFollowsThePhaseOrder := by
  unfold Obligations.RunFollowsThePhaseOrder
  intro s start script short capacity
  refine ⟨length_runPhases _, fun k hk => ?_⟩
  have course := onCourse_of_justStarted start short capacity
  obtain ⟨t, turns, course', host, left⟩ := engineTurns_onCourse course k
  rw [stepsLeft_of_lchk course start.phase, length_message] at left
  obtain ⟨len, -, -⟩ := inputs_eq.1 (inputs_of_hostSide host)
  have busy : t.PHASE ≠ .idle := fun idle => by
    rw [stepsLeft_eq_zero.2 idle] at left
    omega
  have phase := getElem?_runPhases_of_stepsLeft (k := k) course'.counters busy (by rw [len]; omega)
  exact ⟨t, runsTo_of_engineTurns script turns, len ▸ phase⟩

end Sys2Proof.Laws

/-! Proofs about a whole call (43_host_interface R180, 30_encoding R100): the turns of a script of host accesses as a host
program, and the run that follows them. -/

namespace Sys2Proof.Laws

open Sys2Proof.Machine Sys2Proof.Safety

variable {s t : State}

/-! ### Host turns and host programs -/

/-- Other turns to come. -/
def withScript (s : State) (script : List Turn) : State := { s with script := script }

theorem withScript_self {script : List Turn} (h : s.script = script) : withScript s script = s := by
  cases s
  cases h
  rfl

theorem startCall_withScript (s : State) (script : List Turn) :
    (withScript s script).startCall = withScript s.startCall script := by
  obtain ⟨idle, call⟩ | ⟨busy, call⟩ := startCall_cases (s := s)
  · rw [call, startCall_of_idle (withScript s script) idle]
    rfl
  · rw [call, startCall_of_busy (withScript s script) busy]

/-- WREG does not depend on the turns to come, and leaves them. -/
theorem exec_wreg_withScript {n v : DWord} (next : exec (.wreg n v) s = .next t) (script : List Turn) :
    exec (.wreg n v) (withScript s script) = .next (withScript t script) := by
  by_cases cmd : n = 0
  · subst cmd
    by_cases one : v.extractLsb' 0 32 = 1
    · cases (exec_wreg_start one).symm.trans next
      exact (exec_wreg_start one).trans (congrArg Host.Outcome.next (startCall_withScript s script))
    · cases (exec_wreg_cmd one).symm.trans next
      exact exec_wreg_cmd one
  by_cases len : n = 2
  · subst len
    by_cases idle : s.PHASE = .idle
    · cases (execWreg_len_of_idle idle v).symm.trans next
      exact execWreg_len_of_idle (s := withScript s script) idle v
    · cases (exec_wreg_len_of_busy idle v).symm.trans next
      exact exec_wreg_len_of_busy (s := withScript s script) idle v
  · cases (exec_wreg_other cmd len v).symm.trans next
    exact exec_wreg_other cmd len v

/-- A host access does not depend on the turns to come, and leaves them. -/
theorem exec_decodeHost_withScript {d : BitVec 130} (next : exec (decodeHost d) s = .next t) (script : List Turn) :
    exec (decodeHost d) (withScript s script) = .next (withScript t script) := by
  obtain ⟨n, access⟩ | ⟨n, v, access⟩ | ⟨j, access⟩ | ⟨j, b, access⟩ | access := decodeHost_cases d <;>
    rw [access] at next ⊢
  · cases known : s.registerValue n with
    | some r =>
      cases (execRreg_of_some known).symm.trans next
      exact execRreg_of_some (s := withScript s script) known
    | none =>
      cases (execRreg_of_none known).symm.trans next
      exact execRreg_of_none (s := withScript s script) known
  · exact exec_wreg_withScript next script
  · by_cases inside : j.toNat < s.msgCap
    · cases (execRmsg_of_lt inside).symm.trans next
      exact execRmsg_of_lt (s := withScript s script) inside
    · cases (execRmsg_of_not_lt inside).symm.trans next
      exact execRmsg_of_not_lt (s := withScript s script) inside
  · obtain ⟨idle, range, run⟩ | ⟨dropped, run⟩ := execWmsg_cases (s := s) j b <;> cases run.symm.trans next
    · exact execWmsg_of_idle (s := withScript s script) idle range b
    · exact (wmsgEffects (withScript s script) j b).2 dropped
  · cases next
    exact congrArg Host.Outcome.next (startCall_withScript s script)

/-- The turns of a script of host accesses do what the program of these accesses does at the pace of a host that leaves
the engine no turn. -/
theorem runsTo_hostTurns {p : List Instr} {n : Nat} (script : s.script = hostTurns p)
    (run : runProgram (List.replicate n 0) (p.map .access) (withScript s []) = .next (t, [])) :
    RunsTo (hostTurns p).length s t := by
  induction p generalizing s n with
  | nil =>
    have same : withScript s [] = s := withScript_self script
    rw [List.map_nil, runProgram_over, same] at run
    cases run
    rfl
  | cons i p ih =>
    cases n with
    | zero => cases run
    | succ n =>
      rw [List.map_cons, List.replicate_succ, runProgram_access, engineTurns_zero, andThen_next, andThen_eq_next] at run
      obtain ⟨u, access, rest⟩ := run
      cases code : encode i with
      | phase c =>
        simp only [hostTurns, hostAccess, code] at script access ⊢
        cases access
        exact ih script rest
      | host d =>
        simp only [hostTurns, hostAccess, code, takeTurn_host] at script access ⊢
        have turn : step s = .next (withScript u (hostTurns p)) := by
          have taken : s.afterTurn = withScript (withScript s []) (hostTurns p) := by
            simp [State.afterTurn, withScript, script]
          rw [step_eq, turn_of_cons script, taken]
          exact exec_decodeHost_withScript access _
        have stays : withScript u [] = u :=
          Host.Outcome.next.inj ((exec_decodeHost_withScript access []).symm.trans access)
        exact runsTo_succ.2 ⟨_, turn, ih (s := withScript u (hostTurns p)) rfl (stays.symm ▸ rest)⟩

/-! ### The call -/

/-- `putmsg` takes a turn for each byte. -/
theorem length_hostTurns_putMsgFrom (bytes : List Byte) (first : Nat) (p : List Instr) :
    (hostTurns (putMsgFrom first bytes ++ p)).length = bytes.length + (hostTurns p).length := by
  induction bytes generalizing first with
  | nil => exact (Nat.zero_add _).symm
  | cons b bytes ih =>
    simp only [putMsgFrom, List.cons_append, hostTurns, encode, List.length_cons, ih]
    omega

/-- The call takes a turn for each byte, for the length and for START. -/
theorem length_hostTurns_hashCall (m : List Byte) : (hostTurns (hashCall m)).length = m.length + 2 := by
  rw [hashCall, List.append_assoc, putMsg, length_hostTurns_putMsgFrom]
  rfl

/-- Settles O59: the host's turns begin the run of the message, and the engine's turns after them end it with the
digest. -/
theorem hashCallDeliversSha256 : Obligations.HashCallDeliversSha256 := by
  unfold Obligations.HashCallDeliversSha256
  intro s m legal idle script short room
  obtain ⟨u, call, course, phase, empty, -⟩ := runProgram_hashCall (s := withScript s []) legal idle short room
    (pace := List.replicate (m.length + 2) 0) List.length_replicate [] []
  rw [List.append_nil, List.append_nil] at call
  have begun : RunsTo (m.length + 2) s u := length_hostTurns_hashCall m ▸ runsTo_hostTurns script call
  obtain ⟨t, ⟨run, ended, -⟩, done, error, errcode, digest, blocks, padded, message⟩ := runDelivers course empty phase
  have len : t.LEN.toNat = m.length := by rw [← message, length_message]
  exact ⟨t, runsTo_add begun run, ended, done, error, errcode, digest, blocks, padded, len, message⟩

end Sys2Proof.Laws

/-! Proofs about errors (60_exceptions): which step raises one and what it writes (R210, R215), how long the failed state
lasts (R217, R218), and the events that are no errors (R227). -/

namespace Sys2Proof.Laws

open Sys2Proof.Machine Sys2Proof.Safety

variable {s t : State}

/-! ### Error entry -/

/-- 30_encoding R92: the one ill-formed term is the WREG that is the command START, and it does what START does. -/
theorem exec_of_not_wellFormed {i : Instr} (ill : ¬ i.WellFormed) (s : State) : exec i s = exec .start s := by
  cases i
  case wreg n v =>
    obtain ⟨rfl, one⟩ := not_not.1 ill
    exact exec_wreg_start one
  all_goals exact absurd trivial ill

/-- 43_host_interface R185: START sets no ERROR. -/
theorem error_of_exec_start (next : exec .start s = .next t) (error : t.ERROR = true) : s.ERROR = true := by
  cases next
  obtain ⟨-, call⟩ | ⟨-, call⟩ := startCall_cases (s := s) <;> rw [call] at error
  · cases error
  · exact error

/-- 60_exceptions R210: no instruction but LCHK, PSIZE and PCHK sets ERROR. -/
theorem error_of_exec {i : Instr} (other : i ∉ [Instr.lchk, .psize, .pchk]) (next : exec i s = .next t)
    (error : t.ERROR = true) : s.ERROR = true := by
  by_cases wf : i.WellFormed
  · by_cases writer : i = .start ∨ i = .finish
    · obtain rfl | rfl := writer
      · exact error_of_exec_start next error
      · cases next
        exact error
    · have same : flags t = flags s := flags_exec wf (by simp_all) next
      exact (congrArg (·.2.1) same).symm.trans error
  · exact error_of_exec_start (exec_of_not_wellFormed wf s ▸ next) error

/-- 60_exceptions R210, R215: ERROR rises in the error entry of LCHK, PSIZE or PCHK, each under its own condition. -/
theorem raises_of_error {i : Instr} (clear : s.ERROR = false) (next : exec i s = .next t) (error : t.ERROR = true) :
    (i = .lchk ∧ 2 ^ 61 ≤ s.LEN.toNat ∧ t = s.raise .lengthOverflow) ∨
    (i = .psize ∧ s.NMAX < nblocks s.LEN.toNat ∧ t = s.raise .allocationFailure) ∨
    (i = .pchk ∧ (s.PLEN.toNat % 64 ≠ 0 ∨ s.N.toNat ≠ s.PLEN.toNat / 64) ∧ t = s.raise .malformedInput) := by
  have check : i ∈ [Instr.lchk, .psize, .pchk] := by
    by_contra other
    exact absurd (error_of_exec other next error) (by simp [clear])
  simp only [List.mem_cons, List.not_mem_nil, or_false] at check
  obtain rfl | rfl | rfl := check
  · obtain ⟨long, run⟩ | ⟨-, run⟩ := execLchk_cases (s := s) <;> cases run.symm.trans next
    · exact .inl ⟨rfl, long, rfl⟩
    · exact absurd error (by simp [clear])
  · obtain ⟨full, run⟩ | ⟨-, run⟩ := execPsize_cases (s := s) <;> cases run.symm.trans next
    · exact .inr (.inl ⟨rfl, full, rfl⟩)
    · exact absurd error (by simp [clear])
  · obtain ⟨bad, run⟩ | ⟨-, -, run⟩ := execPchk_cases (s := s) <;> cases run.symm.trans next
    · exact .inr (.inr ⟨rfl, bad, rfl⟩)
    · exact absurd error (by simp [clear])

/-- Settles O34: the error entry writes neither DONE nor D, and a run has DONE = 0 and D invalid. -/
theorem errorEntryWritesThreeThings : Obligations.ErrorEntryWritesThreeThings := by
  unfold Obligations.ErrorEntryWritesThreeThings
  intro i s t clear next error
  have entry := raises_of_error clear next error
  refine ⟨entry, fun inv busy => ?_⟩
  obtain ⟨done, -, -, digest⟩ := flags_eq_running.1 (flags_of_busy inv.flags busy)
  obtain ⟨-, -, rfl⟩ | ⟨-, -, rfl⟩ | ⟨-, -, rfl⟩ := entry <;> exact ⟨done, digest⟩

/-! ### The failed state -/

/-- A host access other than START leaves the flags alone (10_state R35). -/
theorem flags_host {d : BitVec 130} (other : decodeHost d ≠ .start) (next : exec (decodeHost d) s = .next t) :
    flags t = flags s := by
  refine flags_exec (decodeHost_wellFormed d) ?_ next
  obtain ⟨n, access⟩ | ⟨n, v, access⟩ | ⟨j, access⟩ | ⟨j, b, access⟩ | access := decodeHost_cases d
  case inr.inr.inr.inr => exact absurd access other
  all_goals simp [access]

/-- 60_exceptions R217: no host access but START leads out of the failed state. -/
theorem failed_host {d : BitVec 130} (failed : s.ERROR = true) (idle : s.PHASE = .idle)
    (other : decodeHost d ≠ .start) (next : exec (decodeHost d) s = .next t) :
    flags t = flags s ∧ t.PHASE = .idle := by
  have same : flags t = flags s := flags_host other next
  cases hostEffect_of_exec next with
  | answers | setLen | setMsg => exact ⟨same, idle⟩
  | start => exact absurd ((congrArg (·.2.1) same).trans failed) Bool.false_ne_true

/-- 43_host_interface R185: START while idle begins a run. -/
theorem justStarted_of_exec_start (idle : s.PHASE = .idle) (next : exec .start s = .next t) : JustStarted t := by
  cases (exec_start_of_idle idle).symm.trans next
  exact ⟨rfl, rfl, rfl, rfl, rfl⟩

/-- 10_state R35: the failed state is idle. -/
theorem idle_of_failed (inv : FlagsInv s) (failed : s.ERROR = true) : s.PHASE = .idle :=
  (busy_eq_false s).1 (inv.ended (.inr failed))

/-- Settles O35: the failed state is idle, so the engine does nothing, and of the host's accesses only START writes a
flag or PHASE. -/
theorem failedStateLastsUntilStart : Obligations.FailedStateLastsUntilStart := by
  unfold Obligations.FailedStateLastsUntilStart
  intro s inv failed
  have idle : s.PHASE = .idle := idle_of_failed inv.flags failed
  refine ⟨⟨_, exec_start_of_idle idle, rfl, rfl, rfl⟩, fun t noReset next => ?_⟩
  obtain ⟨-, -, rfl⟩ | ⟨i, -, selected, -⟩ | ⟨d, turn, run⟩ | ⟨reset, -⟩ := step_next next
  · exact .inl ⟨failed, rfl, rfl, idle, rfl⟩
  · simp [idle, Phase.operation] at selected
  · by_cases start : decodeHost d = .start
    · exact .inr ⟨d, turn, congrArg Except.ok start, justStarted_of_exec_start (s := s.afterTurn) idle (start ▸ run)⟩
    · obtain ⟨same, stays⟩ := failed_host (s := s.afterTurn) failed idle start run
      obtain ⟨done, error, errcode, digest⟩ := flags_eq.1 same
      exact .inl ⟨error.trans failed, errcode, done, stays, digest⟩
  · exact absurd reset noReset

/-! ### Events that are no errors -/

/-- 43_host_interface R181: RREG changes no state of the engine. -/
theorem exec_rreg_frame (n : DWord) (s : State) :
    ∃ t, exec (.rreg n) s = .next t ∧ t = { s with returned := t.returned, freeCount := t.freeCount } := by
  obtain ⟨_, -, run⟩ | ⟨-, run⟩ := execRreg_cases (s := s) n <;> exact ⟨_, run, rfl⟩

/-- 43_host_interface R183: RMSG changes no state of the engine. -/
theorem exec_rmsg_frame (j : DWord) (s : State) :
    ∃ t, exec (.rmsg j) s = .next t ∧ t = { s with returned := t.returned, freeCount := t.freeCount } := by
  obtain ⟨-, run⟩ | ⟨-, run⟩ := execRmsg_cases (s := s) j <;> exact ⟨_, run, rfl⟩

/-- Settles O21: each write is one its instruction drops, and a read only answers. -/
theorem eventsThatAreNotErrors : Obligations.EventsThatAreNotErrors := by
  unfold Obligations.EventsThatAreNotErrors
  intro s n v j b
  have dropped := (wmsgEffects s j b).2
  refine ⟨exec_wreg_cmd, fun busy => ?_, fun other => ?_, fun beyond => dropped (.inr beyond), exec_rreg_frame n s,
    exec_rmsg_frame j s⟩
  · exact ⟨exec_start_of_busy busy, exec_wreg_len_of_busy busy v, dropped (.inl busy)⟩
  · exact exec_wreg_other (by bv_omega) (by bv_omega) v

end Sys2Proof.Laws

/-! Proofs about reset and progress (70_reset_and_hazards): what a reset turn gives (R240, R241), that no turn stops the
machine, and that every run ends, whatever turns come between the engine's (R249, R251). -/

namespace Sys2Proof.Laws

open Sys2Proof.Machine Sys2Proof.Safety

variable {s t : State}

/-! ### Reset -/

/-- A reset turn applies the reset input, whatever the engine is doing. -/
theorem step_of_reset {rest : List Turn} (script : s.script = .reset :: rest) :
    step s = .next s.afterTurn.applyReset := by
  rw [step_eq, turn_of_cons script]

/-- Settles O7: the turn applies the reset input, and each field is then that of State.reset or one of those that stay. -/
theorem resetTurnGivesResetState : Obligations.ResetTurnGivesResetState := by
  unfold Obligations.ResetTurnGivesResetState
  intro s rest script
  have turnsToCome : s.afterTurn.applyReset.script = rest := by simp [script]
  exact ⟨_, step_of_reset script, rfl, rfl, rfl, rfl, rfl, rfl, find_nil, find_nil, find_nil, rfl, turnsToCome, rfl, rfl⟩

/-! ### No turn stops -/

/-- Taking a turn off the script moves no counter. -/
theorem counterInv_afterTurn (counters : CounterInv s) : CounterInv s.afterTurn :=
  counterInv_withOwn counters s.script.tail s.returned s.freeCount

/-- 20_memory R77: where the counters are in their places every turn is taken: the engine's forms no index out of range,
no descriptor is illegal, and a reset comes at any time. -/
theorem continues_of_counterInv (counters : CounterInv s) : Continues s := by
  rw [Continues, step_eq]
  cases s.turn with
  | engine =>
    cases selected : s.PHASE.operation with
    | none => exact ⟨_, rfl⟩
    | some i => exact exec_operation_next (counterInv_afterTurn counters) selected
  | host d => exact exec_decodeHost_next d s.afterTurn
  | reset => exact ⟨_, rfl⟩

/-- Settles O11: of the control invariant, the places of the counters are all that a step needs. -/
theorem controlledStepNeverStops : Obligations.ControlledStepNeverStops := by
  unfold Obligations.ControlledStepNeverStops
  exact fun _ inv => continues_of_counterInv inv.counters

/-! ### Every run ends -/

/-- An operation ends the run, LCHK and PSIZE also with an error, or brings its end one step nearer: after PSIZE the
message is known to fit. -/
theorem ends_or_nearer_operation {i : Instr} (counters : CounterInv s) (selected : s.PHASE.operation = some i)
    (next : exec i s = .next t) : t.PHASE = .idle ∨ stepsLeft t + 1 = stepsLeft s := by
  by_cases later : s.PHASE ∉ [Phase.idle, .lchk, .psize]
  · have sized : Sized s := counters.sized later
    exact .inr (stepsLeft_operation counters sized.lenOk (sized.blocks ▸ sized.capacity) selected next)
  · simp only [List.mem_cons, List.not_mem_nil, or_false, not_not] at later
    obtain phase | phase | phase := later <;> rw [phase] at selected <;> cases selected
    · obtain ⟨-, run⟩ | ⟨short, -⟩ := execLchk_cases (s := s)
      · cases run.symm.trans next
        exact .inl rfl
      · exact .inr (stepsLeft_lchk phase short next)
    · obtain ⟨-, run⟩ | ⟨capacity, -⟩ := execPsize_cases (s := s)
      · cases run.symm.trans next
        exact .inl rfl
      · exact .inr (stepsLeft_psize phase (counters.checked (by simp [phase])) capacity next)

/-- A bound on the turns a run still takes: those of the script, none of which need be the engine's, and then one for
each operation to come. -/
def turnsLeft (s : State) : Nat := s.script.length + stepsLeft s

/-- Every turn of a run leaves the counters in their places, and ends the run or brings the end nearer: an operation by a
step, a host access by the turn it takes off the script; and a reset ends it. -/
theorem ends_or_nearer_step (counters : CounterInv s) (busy : s.PHASE ≠ .idle) (next : step s = .next t) :
    CounterInv t ∧ (t.PHASE = .idle ∨ turnsLeft t < turnsLeft s) := by
  have taken : CounterInv s.afterTurn := counterInv_afterTurn counters
  obtain ⟨-, idle, -⟩ | ⟨i, -, selected, run⟩ | ⟨d, turn, run⟩ | ⟨-, rfl⟩ := step_next next
  · exact absurd idle busy
  · have shorter : t.script.length ≤ s.script.length := by
      rw [script_operation (s := s.afterTurn) selected run, afterTurn_script, List.length_tail]
      omega
    have closer : t.PHASE = .idle ∨ stepsLeft t + 1 = stepsLeft s :=
      ends_or_nearer_operation (s := s.afterTurn) taken selected run
    refine ⟨counterInv_operation taken selected run, closer.imp_right fun nearer => ?_⟩
    rw [turnsLeft, turnsLeft]
    omega
  · obtain ⟨returned, freeCount, rfl⟩ := hostEffect_of_busy (s := s.afterTurn) busy (hostEffect_of_exec run)
    refine ⟨counterInv_withOwn taken _ _ _, .inr (Nat.add_lt_add_right ?_ (stepsLeft s))⟩
    cases script : s.script with
    | nil => simp [turn_of_nil script] at turn
    | cons first rest => simp [withOwn, script]
  · exact ⟨counterInv_of_idle rfl, .inl rfl⟩

/-- A run ends within the turns that are left. -/
theorem endsAfter_of_turnsLeft {n : Nat} (counters : CounterInv s) (bound : turnsLeft s ≤ n) :
    ∃ k t, k ≤ n ∧ EndsAfter k s t := by
  induction n generalizing s with
  | zero =>
    have noneLeft : stepsLeft s = 0 := Nat.eq_zero_of_add_eq_zero_left (Nat.le_zero.1 bound)
    exact ⟨0, s, le_rfl, endsAfter_zero (stepsLeft_eq_zero.1 noneLeft)⟩
  | succ n ih =>
    by_cases idle : s.PHASE = .idle
    · exact ⟨0, s, Nat.zero_le _, endsAfter_zero idle⟩
    · obtain ⟨u, turn⟩ := continues_of_counterInv counters
      obtain ⟨counters', ended | nearer⟩ := ends_or_nearer_step counters idle turn
      · exact ⟨1, u, by omega, endsAfter_succ idle turn (endsAfter_zero ended)⟩
      · obtain ⟨k, t, within, rest⟩ := ih counters' (by omega)
        exact ⟨k + 1, t, by omega, endsAfter_succ idle turn rest⟩

/-- Settles O57: right after START the turns left are those of the script and the steps of the whole run. -/
theorem everyRunEnds : Obligations.EveryRunEnds := by
  unfold Obligations.EveryRunEnds
  intro s start
  have counters : CounterInv s := counterInv_iff.2 (by rw [start.phase]; trivial)
  have whole : turnsLeft s = s.script.length + runSteps (nblocks s.LEN.toNat) := by
    simp only [turnsLeft, stepsLeft, start.phase]
  exact endsAfter_of_turnsLeft counters whole.le

end Sys2Proof.Laws
